-- ==== Sys2Proof/Word.lean ====
section
/-! DEFINITION. The word and address types of the bus interface (00_scope.md R12). -/

namespace Sys2Proof

/-- A register or Pulse Train slot as the bus sees it: `XLEN = 32` bits (R12). -/
abbrev Word := BitVec 32

/-- A word address: `ALEN = 7` bits, 0x00 to 0x7F (R12, R50). -/
abbrev Addr := BitVec 7

end Sys2Proof
end

