-- ==== Sys2Proof/Syntax.lean ====
section
/-! DEFINITION. The operations a host write to CTRL selects: one constructor per row of
spec/opcode_table.json (00_scope.md R15, 30_encoding.md R80). -/

namespace Sys2Proof

/-- An operation of the block. No operation has an operand field (R82). -/
inductive Instr where
  /-- NOP, CTRL value 0x00000000 (R180). -/
  | nop
  /-- ENCODE, CTRL value 0x00000001 (R140). -/
  | encode
  /-- DECODE, CTRL value 0x00000002 (R160). -/
  | decode
  /-- VALIDATE, CTRL value 0x00000003 (R100). -/
  | validate
  /-- BAD_OP, every other CTRL value (R83, R181). It keeps the word that was written, so that the
  encoder can give it back; the block itself records nothing of it (R201; log 9). -/
  | badOp (word : Word)
  deriving DecidableEq, Repr

end Sys2Proof
end

