-- ==== Sys2Proof/WellFormed.lean ====
section
/-! DEFINITION. Which terms of `Instr` are operations of the block: a BAD_OP carries a reserved CTRL
value, one of those 30_encoding.md R83 lists. -/

namespace Sys2Proof

/-- The CTRL values R83 calls reserved: all but the four of R80. -/
def isReservedWord (w : Word) : Bool := !(w == 0 || w == 1 || w == 2 || w == 3)

/-- An operation is well formed when a BAD_OP's word is a reserved one (R83). -/
def Instr.wf : Instr → Bool
  | .nop => true
  | .encode => true
  | .decode => true
  | .validate => true
  | .badOp w => isReservedWord w

end Sys2Proof
end

