-- ==== Sys2Proof/Decode.lean ====
section
/-! DEFINITION. The CTRL word's decoder and encoder (30_encoding.md R80, R81, R83, R84). Decoding is
total: every word without another meaning is BAD_OP, by name. -/

namespace Sys2Proof

/-- The field OP = v[3:0] of a CTRL word (R80, R81). -/
def opField (v : Word) : BitVec 4 := v.extractLsb' 0 4

/-- The field RSV = v[31:4] of a CTRL word (R80, R81). -/
def rsvField (v : Word) : BitVec 28 := v.extractLsb' 4 28

/-- The operation a CTRL write of `v` selects, as R80's decoder has it: BAD_OP when RSV is not 0,
otherwise by OP. -/
def decodeCtrl (v : Word) : Instr :=
  if rsvField v ≠ 0 then .badOp v
  else
    match (opField v).toNat with
    | 0 => .nop
    | 1 => .encode
    | 2 => .decode
    | 3 => .validate
    | _ => .badOp v

/-- The CTRL word of an operation: the values of R80's table. -/
def encodeCtrl : Instr → Word
  | .nop => 0x00000000#32
  | .encode => 0x00000001#32
  | .decode => 0x00000002#32
  | .validate => 0x00000003#32
  | .badOp w => w

/-- The word made of the low `nbits` bits of `w`, the bits above them 0. -/
def tableWord (nbits w : Nat) : Word := BitVec.ofNat 32 (w % 2 ^ nbits)

/-- The operation the decoder reads from a word given as spec/opcode_table.json numbers its bits. An
operation is always exactly one 32-bit word (R81), so more than 32 bits are no operation (log 11). -/
def decodeTableWord (nbits w : Nat) : Option Instr :=
  if nbits ≤ 32 then some (decodeCtrl (tableWord nbits w)) else none

end Sys2Proof
end

