-- ==== Sys2Proof/Config.lean ====
section
/-! DEFINITION. The constants of the hardware (00_scope.md R8 to R11, 10_state.md R36) and the one
parameter the spec leaves OPEN, FOOTER_DIV (R10, decision D19). The sizes N_SLOTS = 50, N_BITS = 12 and
GROUP = 4 (R6, R7) stand as literals in the types. -/

namespace Sys2Proof.Config

/-- The long-pulse multiplier `M` (R8). -/
def longMultiplier : Nat := 3

/-- `UNIT_TABLE`, indexed by CFG.UNIT_SEL: 0 selects 264, 1 selects 258 (R9, R36, R120). -/
def unitTable : Bool → Nat
  | false => 264
  | true => 258

/-- The greatest id a command may carry (R11). -/
def idMax : Int := 63

/-- The greatest unit a command may carry (R11). -/
def unitMax : Int := 15

/-- FOOTER_DIV less one: OPEN in the spec (R10, D19), fixed at build time and never given a value.
It has no body, so a claim proved here holds for every value in the range (log 5). -/
opaque footerDivLessOne : Fin 16268815

/-- The footer multiplier FOOTER_DIV: a natural number with `1 ≤ FOOTER_DIV ≤ 16268815` (R10). -/
def footerDiv : Nat := footerDivLessOne.val + 1

end Sys2Proof.Config
end

