-- ==== Sys2Proof/Machine/State.lean ====
section
/-! DEFINITION. The state of the machine: the block's registers and Pulse Train buffer, complete by
10_state.md R22 and R38, and beside them the host agent (R20): what it does next and what its reads
returned. -/

namespace Sys2Proof.Machine

/-- A command: id 0 to 63, unit 0 to 15, on or off (00_scope.md R11). -/
structure Command where
  /-- The device id, 6 bits. -/
  id : BitVec 6
  /-- The unit number, 4 bits. -/
  unit : BitVec 4
  /-- The state: true is on (1), false is off (0). -/
  on : Bool
  deriving DecidableEq, Repr

/-- The two kinds of bus transaction (20_memory.md R50). -/
inductive Transaction where
  /-- `Read(addr)`: returns one 32-bit word to the host. -/
  | read (addr : Addr)
  /-- `Write(addr, v)`: delivers one 32-bit word to the block. -/
  | write (addr : Addr) (v : Word)
  deriving DecidableEq, Repr

/-- What the host can do to the block: a bus transaction (R50), or the reset input, an event between
transactions (70_reset_and_hazards.md R230). -/
inductive HostEvent where
  /-- A bus transaction. -/
  | bus (t : Transaction)
  /-- The reset input is raised. -/
  | reset
  deriving DecidableEq, Repr

/-- Why the machine stops with a fault: there is no reason, since "no transaction faults, stalls or is
refused, whatever its address or data. There is no bus error" (20_memory.md R51; log 14). -/
inductive Fault where
  deriving DecidableEq, Repr

/-- Why an operation has no meaning in this model. -/
inductive Refusal where
  /-- Raised only by an arm of `exec` whose operation is not modelled yet; safe. No arm raises it. -/
  | notModelled (mnemonic : String)
  deriving DecidableEq, Repr

/-- The machine. The bits 10_state.md hardwires to 0 have no storage (log 7). -/
structure State where
  /-- STATUS[3:0]: ERR in bits 2 to 0, OUT_VALID in bit 3 (R24, R25, R26). -/
  status : BitVec 4
  /-- CFG[1:0]: UNIT_SEL in bit 0, MODE in bit 1 (R27, R28, R29). -/
  cfg : BitVec 2
  /-- IN_FLAGS[3:0]: ID_PRESENT, UNIT_PRESENT, ON, OFF in bits 0 to 3 (R30). -/
  inFlags : BitVec 4
  /-- IN_ID, a signed 32-bit integer (R31). -/
  inId : Word
  /-- IN_UNIT, a signed 32-bit integer (R32). -/
  inUnit : Word
  /-- OUT_CMD, by its three fields (R33). -/
  outCmd : Command
  /-- FRAME[11:0] (R34). -/
  frame : BitVec 12
  /-- The Pulse Train buffer PT[0] to PT[49] (R35). -/
  pt : Vector Word 50
  /-- The model's own: what the host does next, oldest first (log 1). -/
  pending : List HostEvent
  /-- The model's own: the words the host's reads returned, oldest first (log 2). -/
  recorded : List Word
  deriving DecidableEq, Repr

/-- The machine right after reset: every register and slot 0 (70_reset_and_hazards.md R230), the host
with nothing to do and nothing recorded (log 1, log 2). -/
def State.reset : State where
  status := 0
  cfg := 0
  inFlags := 0
  inId := 0
  inUnit := 0
  outCmd := { id := 0, unit := 0, on := false }
  frame := 0
  pt := Vector.replicate 50 0
  pending := []
  recorded := []

end Sys2Proof.Machine
end

