-- ==== Sys2Proof/Machine/Flags.lean ====
section
/-! DEFINITION. STATUS, the block's only flags (10_state.md R24 to R26, R37), and the error codes
(60_exceptions.md R200). -/

namespace Sys2Proof.Machine

/-- The errors an operation can report (R200). -/
inductive ErrCode where
  /-- The state, the id or the unit is not supplied (40_validator.md R101). -/
  | missingField
  /-- The id is not in 0 to 63 (R102). -/
  | idOutOfRange
  /-- The unit is not in 0 to 15 (R103). -/
  | unitOutOfRange
  /-- A reserved CTRL value (30_encoding.md R83). -/
  | badOp
  deriving DecidableEq, Repr

/-- The code STATUS.ERR holds for an error (R24, R200). -/
def ErrCode.code : ErrCode → BitVec 3
  | .missingField => 1
  | .idOutOfRange => 2
  | .unitOutOfRange => 3
  | .badOp => 4

/-- STATUS with the given fields: ERR in bits 2 to 0, OUT_VALID in bit 3 (R24, R25). -/
def mkStatus (outValid : Bool) (err : BitVec 3) : BitVec 4 := BitVec.ofBool outValid ++ err

/-- STATUS.ERR (R24). -/
def State.err (s : State) : BitVec 3 := s.status.extractLsb' 0 3

/-- STATUS.OUT_VALID (R25). -/
def State.outValid (s : State) : Bool := s.status.getLsbD 3

/-- STATUS after a successful operation other than NOP: ERR = 0, OUT_VALID = 1 (R203). -/
def okStatus : BitVec 4 := mkStatus true 0

/-- STATUS after `raise Err(c)`: ERR = c, OUT_VALID = 0 (R203). -/
def errStatus (e : ErrCode) : BitVec 4 := mkStatus false e.code

end Sys2Proof.Machine
end

