-- ==== Sys2Proof/Machine/Operands.lean ====
section
/-! DEFINITION. The operands operations take from registers (30_encoding.md R82): the fields of CFG
and IN_FLAGS, and the Bit Frame with its fields (10_state.md R34, 43_decoder.md R162). -/

namespace Sys2Proof.Machine

/-- The two encoder variants CFG.MODE selects (R28). -/
inductive EncMode where
  /-- MODE = 0: the source's encoder as written. -/
  | source
  /-- MODE = 1: the Bit Frame layout exactly. -/
  | frame
  deriving DecidableEq, Repr

/-- CFG.UNIT_SEL = CFG[0] (R27). -/
def State.unitSel (s : State) : Bool := s.cfg.getLsbD 0

/-- CFG.MODE = CFG[1] (R28). -/
def State.mode (s : State) : EncMode := if s.cfg.getLsbD 1 then .frame else .source

/-- The timing unit in force, `u = UNIT_TABLE[CFG.UNIT_SEL]` (41_pulse_lut.md R120). -/
def State.timingUnit (s : State) : Nat := Config.unitTable s.unitSel

/-- IN_FLAGS.ID_PRESENT (R30). -/
def idPresent (f : BitVec 4) : Bool := f.getLsbD 0

/-- IN_FLAGS.UNIT_PRESENT (R30). -/
def unitPresent (f : BitVec 4) : Bool := f.getLsbD 1

/-- IN_FLAGS.ON (R30). -/
def onFlag (f : BitVec 4) : Bool := f.getLsbD 2

/-- IN_FLAGS.OFF (R30). -/
def offFlag (f : BitVec 4) : Bool := f.getLsbD 3

/-- A Bit Frame: 12 positions, position 0 the first group of the Pulse Train (00_scope.md R7, R13). -/
abbrev BitFrame := Vector Bool 12

/-- The number whose bits are the list, the most significant first: each bit at distance `k` from the
end weighs `2^k`, as the sums of R140, R160 and R162 have it. -/
def fieldValue : List Bool → Nat
  | [] => 0
  | b :: bs => b.toNat <<< bs.length + fieldValue bs

/-- The FRAME register of a Bit Frame: `FRAME[11 − k]` is position `k` (R34). -/
def frameRegister (b : BitFrame) : BitVec 12 := BitVec.ofNat 12 (fieldValue b.toList)

/-- The command a Bit Frame carries, by field position: id in positions 0 to 5, unit in 6 to 9, state
in 11, each big-endian; position 10 is no part of it (R162, R163). -/
def commandOfFrame (b : BitFrame) : Command where
  id := BitVec.ofNat 6 (fieldValue [b[0], b[1], b[2], b[3], b[4], b[5]])
  unit := BitVec.ofNat 4 (fieldValue [b[6], b[7], b[8], b[9]])
  on := b[11]

/-- OUT_CMD as the bus reads it: `(STATE << 16) | (UNIT << 8) | ID` (R33, 20_memory.md R52). -/
def commandWord (c : Command) : Word :=
  (BitVec.ofBool c.on).setWidth 32 <<< 16 ||| c.unit.setWidth 32 <<< 8 ||| c.id.setWidth 32

end Sys2Proof.Machine
end

