-- ==== Sys2Proof/Machine/Ops.lean ====
section
/-! DEFINITION. The named operations over registers and the Pulse Train buffer: one writer per field,
error entry and success (60_exceptions.md R203), the address map, the bus read and the storage half of
the bus write (20_memory.md R52, R53), and the reset event (70_reset_and_hazards.md R230). -/

namespace Sys2Proof.Machine

/-- `x[STATUS] <- v`. -/
def State.setStatus (s : State) (v : BitVec 4) : State := { s with status := v }

/-- `x[CFG] <- v`. -/
def State.setCfg (s : State) (v : BitVec 2) : State := { s with cfg := v }

/-- `x[IN_FLAGS] <- v`. -/
def State.setInFlags (s : State) (v : BitVec 4) : State := { s with inFlags := v }

/-- `x[IN_ID] <- v`. -/
def State.setInId (s : State) (v : Word) : State := { s with inId := v }

/-- `x[IN_UNIT] <- v`. -/
def State.setInUnit (s : State) (v : Word) : State := { s with inUnit := v }

/-- `x[OUT_CMD] <- c`, by its fields. -/
def State.setOutCmd (s : State) (c : Command) : State := { s with outCmd := c }

/-- `x[FRAME] <- v`. -/
def State.setFrame (s : State) (v : BitVec 12) : State := { s with frame := v }

/-- All 50 Pulse Train slots at once. -/
def State.setPt (s : State) (p : Vector Word 50) : State := { s with pt := p }

/-- What the host does next. -/
def State.setPending (s : State) (es : List HostEvent) : State := { s with pending := es }

/-- The host records a word its read returned. -/
def State.record (s : State) (w : Word) : State := { s with recorded := s.recorded ++ [w] }

/-- `PT[k] <- v`. -/
def State.setSlot (s : State) (k : Fin 50) (v : Word) : State :=
  s.setPt (s.pt.set k v)

/-- `raise Err(c)`, the block's one exception entry: STATUS.ERR is the code, STATUS.OUT_VALID is 0 and
no other register, field or slot is written; no mode, vector or saved state exists, so there is no
return either (R203, R204). -/
def raiseErr (e : ErrCode) (s : State) : State := s.setStatus (errStatus e)

/-- The last step of a successful operation: STATUS.ERR is 0, STATUS.OUT_VALID is 1 (R203). -/
def succeed (s : State) : State := s.setStatus okStatus

/-- What a word address names (10_state.md R22, 20_memory.md R60). -/
inductive BusTarget where
  | ctrl
  | status
  | cfg
  | inFlags
  | inId
  | inUnit
  | outCmd
  | frame
  /-- Pulse Train slot `k`. -/
  | slot (k : Fin 50)
  /-- A reserved word: 0x08 to 0x0F and 0x42 to 0x7F. -/
  | reserved
  deriving DecidableEq, Repr

/-- The address map: the registers at 0x00 to 0x07, slot `k` at `0x10 + k`, the rest reserved
(R22, R60). -/
def busTarget (a : Addr) : BusTarget :=
  match a.toNat with
  | 0x00 => .ctrl
  | 0x01 => .status
  | 0x02 => .cfg
  | 0x03 => .inFlags
  | 0x04 => .inId
  | 0x05 => .inUnit
  | 0x06 => .outCmd
  | 0x07 => .frame
  | n => if h : 0x10 ≤ n ∧ n ≤ 0x41 then .slot ⟨n - 0x10, by omega⟩ else .reserved

/-- The word address of a target that has one address of its own; a reserved word has none. -/
def addrOfTarget : BusTarget → Option Addr
  | .ctrl => some 0x00
  | .status => some 0x01
  | .cfg => some 0x02
  | .inFlags => some 0x03
  | .inId => some 0x04
  | .inUnit => some 0x05
  | .outCmd => some 0x06
  | .frame => some 0x07
  | .slot k => some (BitVec.ofNat 7 (0x10 + k.val))
  | .reserved => none

/-- What `Read(a)` returns; it changes no state (R52). -/
def busRead (a : Addr) (s : State) : Word :=
  match busTarget a with
  | .ctrl => 0
  | .status => s.status.setWidth 32
  | .cfg => s.cfg.setWidth 32
  | .inFlags => s.inFlags.setWidth 32
  | .inId => s.inId
  | .inUnit => s.inUnit
  | .outCmd => commandWord s.outCmd
  | .frame => s.frame.setWidth 32
  | .slot k => s.pt[k]
  | .reserved => 0

/-- What `Write(a, v)` stores, and nothing else (R53). CTRL stores nothing (R23); read-only and
reserved words ignore the write. -/
def busStore (a : Addr) (v : Word) (s : State) : State :=
  match busTarget a with
  | .ctrl => s
  | .status => s
  | .cfg => s.setCfg (v.setWidth 2)
  | .inFlags => s.setInFlags (v.setWidth 4)
  | .inId => s.setInId v
  | .inUnit => s.setInUnit v
  | .outCmd => s
  | .frame => s
  | .slot k => s.setSlot k v
  | .reserved => s

/-- The reset event: every state element of the block at its reset value, "nothing survives it"
(R230). The host is not the block and keeps what it has left to do and what it recorded (log 10). -/
def resetBlock (s : State) : State :=
  { State.reset with pending := s.pending, recorded := s.recorded }

end Sys2Proof.Machine
end

