-- ==== Sys2Proof/Machine/Control.lean ====
section
/-! DEFINITION. The operations NOP and BAD_OP (44_control.md R180, R181). -/

namespace Sys2Proof.Machine

/-- NOP: no register, flag or slot is written; STATUS keeps the last outcome (R180). -/
def execNop (s : State) : Host.Outcome State Fault Refusal := .next s

/-- BAD_OP: `raise Err(4)`, whatever the reserved word; nothing else changes (R181). -/
def execBadOp (_word : Word) (s : State) : Host.Outcome State Fault Refusal :=
  .next (raiseErr .badOp s)

end Sys2Proof.Machine
end

