-- ==== Sys2Proof/Machine/PulseLut.lean ====
section
/-! DEFINITION. The timing values, the bit-group patterns and the slot classifier that ENCODE and
DECODE share (41_pulse_lut.md R120 to R130). -/

namespace Sys2Proof.Machine

/-- The two timing classes (R121, R127). -/
inductive TimingClass where
  | low
  | high
  deriving DecidableEq, Repr

/-- Slot `j` of group `g`: group `g` is slots `4g` to `4g + 3` (00_scope.md R7). -/
def groupSlot (g : Fin 12) (j : Fin 4) : Fin 50 := ⟨4 * g.val + j.val, by omega⟩

/-- The long pulse `M·u` (R121). -/
def longPulse (u : Nat) : Nat := Config.longMultiplier * u

/-- The bit-group pattern: `PAT(0) = [u, M·u, M·u, u]` and `PAT(1) = [u, M·u, u, M·u]`
(R122, R123). -/
def pattern (u : Nat) (bit : Bool) : Vector Nat 4 :=
  if bit then #v[u, longPulse u, u, longPulse u] else #v[u, longPulse u, longPulse u, u]

/-- The footer's second value, `FOOTER_DIV·u` (R126). -/
def footerPulse (u : Nat) : Nat := Config.footerDiv * u

/-- A timing value as a 32-bit slot holds it; no timing value overflows it (R125). -/
def slotWord (n : Nat) : Word := BitVec.ofNat 32 n

/-- The classifier: HIGH when the slot is exactly `M·u`, otherwise LOW (R127). -/
def classify (u : Nat) (v : Word) : TimingClass := if v = slotWord (longPulse u) then .high else .low

/-- The bit group `g` carries: the class of its fourth slot, `4g + 3` (R128). -/
def bitOf (u : Nat) (pt : Vector Word 50) (g : Fin 12) : Bool :=
  classify u pt[groupSlot g 3] == .high

end Sys2Proof.Machine
end

