-- ==== Sys2Proof/Machine/Decoder.lean ====
section
/-! DEFINITION. The operation DECODE (43_decoder.md R160 to R165). -/

namespace Sys2Proof.Machine

/-- The Bit Frame a Pulse Train carries: the bit of each of its 12 groups (R160, R161). -/
def trainBits (u : Nat) (pt : Vector Word 50) : BitFrame :=
  Vector.ofFn fun g => bitOf u pt g

/-- DECODE: the Bit Frame of PT under the timing unit in force to FRAME, its command to OUT_CMD; it
cannot fail and does not write PT (R160, R161). -/
def execDecode (s : State) : Host.Outcome State Fault Refusal :=
  let b := trainBits s.timingUnit s.pt
  .next (succeed ((s.setOutCmd (commandOfFrame b)).setFrame (frameRegister b)))

end Sys2Proof.Machine
end

