-- ==== Sys2Proof/Machine/Validator.lean ====
section
/-! DEFINITION. `validate` and the operation VALIDATE (40_validator.md R100 to R107). -/

namespace Sys2Proof.Machine

/-- What `validate` returns (R104). -/
inductive Verdict where
  /-- The one error it reports. -/
  | error (e : ErrCode)
  /-- The validated command. -/
  | ok (c : Command)
  deriving DecidableEq, Repr

/-- The guard of ENCODE and VALIDATE: one error at most, MISSING_FIELD before ID_OUT_OF_RANGE before
UNIT_OUT_OF_RANGE, comparisons signed; off wins when both flags are set (R101 to R106). -/
def validate (f : BitVec 4) (idRaw unitRaw : Word) : Verdict :=
  if (!onFlag f && !offFlag f) || !idPresent f || !unitPresent f then .error .missingField
  else if ¬ (0 ≤ idRaw.toInt ∧ idRaw.toInt ≤ Config.idMax) then .error .idOutOfRange
  else if ¬ (0 ≤ unitRaw.toInt ∧ unitRaw.toInt ≤ Config.unitMax) then .error .unitOutOfRange
  else .ok { id := idRaw.extractLsb' 0 6, unit := unitRaw.extractLsb' 0 4, on := !offFlag f }

/-- `validate` on the command input registers as they stand. -/
def State.verdict (s : State) : Verdict := validate s.inFlags s.inId s.inUnit

/-- VALIDATE: report the validated command in OUT_CMD, or the error; FRAME and PT are not touched
(R100). -/
def execValidate (s : State) : Host.Outcome State Fault Refusal :=
  match s.verdict with
  | .error e => .next (raiseErr e s)
  | .ok c => .next (succeed (s.setOutCmd c))

end Sys2Proof.Machine
end

