-- ==== Sys2Proof/Machine/Encoder.lean ====
section
/-! DEFINITION. The encoder and the operation ENCODE (42_encoder.md R140 to R152), and the source's
own step-by-step procedure (R147) beside it. -/

namespace Sys2Proof.Machine

/-- The Bit Frame layout: id in positions 0 to 5 and unit in 6 to 9, the most significant bit first,
position 10 reserved as 0, the state in 11 (R141). -/
def layoutBits (c : Command) : BitFrame :=
  Vector.ofFn fun k : Fin 12 =>
    if k.val < 6 then c.id.getLsbD (5 - k.val)
    else if k.val < 10 then c.unit.getLsbD (3 - (k.val - 6))
    else if k.val = 10 then false
    else c.on

/-- The Bit Frame ENCODE sends: in SOURCE mode the header marker forces position 0 to 1 (R142) and the
state group is the "1" pattern whatever the state (R143); in FRAME mode it is the layout (R141). -/
def frameBits (c : Command) : EncMode → BitFrame
  | .source => ((layoutBits c).set 0 true).set 11 true
  | .frame => layoutBits c

/-- The timing value of slot `k`: groups 0 to 11 are the patterns of the frame's bits (R144), slot 48
is `u` and slot 49 is `FOOTER_DIV·u` (R145). -/
def slotValue (u : Nat) (b : BitFrame) (k : Fin 50) : Nat :=
  if h : k.val / 4 < 12 then (pattern u b[k.val / 4])[k.val % 4]'(Nat.mod_lt _ (by decide))
  else if k.val = 48 then u
  else footerPulse u

/-- The Pulse Train of a Bit Frame: all 50 slots (R144 to R146). -/
def train (u : Nat) (b : BitFrame) : Vector Word 50 :=
  Vector.ofFn fun k => slotWord (slotValue u b k)

/-- ENCODE: on a valid command its Pulse Train to PT, the command to OUT_CMD and its Bit Frame to
FRAME; on an error nothing but STATUS (R140, R152). -/
def execEncode (s : State) : Host.Outcome State Fault Refusal :=
  match s.verdict with
  | .error e => .next (raiseErr e s)
  | .ok c =>
    let b := frameBits c s.mode
    .next (succeed (((s.setPt (train s.timingUnit b)).setOutCmd c).setFrame (frameRegister b)))

/-- Group `g` <- PAT(bit): its four slots. -/
def writeGroup (u : Nat) (g : Fin 12) (bit : Bool) (pt : Vector Word 50) :
    Vector Word 50 :=
  let p := pattern u bit
  (((pt.set (groupSlot g 0) (slotWord p[0])).set (groupSlot g 1) (slotWord p[1])).set
    (groupSlot g 2) (slotWord p[2])).set (groupSlot g 3) (slotWord p[3])

/-- Steps 2 and 3 of R147: for `j` in the list, if bit `j` of the field is 1, the group that carries
it <- PAT(1). -/
def writeOnes (u : Nat) (bitAt : Nat → Bool) (groupOf : Nat → Fin 12) (js : List Nat)
    (pt : Vector Word 50) : Vector Word 50 :=
  js.foldl (fun p j => if bitAt j then writeGroup u (groupOf j) true p else p) pt

/-- The procedure of R147 on a buffer: baseline, id field, unit field, reserved and state, footer. -/
def procedureTrain (u : Nat) (c : Command) (m : EncMode) (pt : Vector Word 50) :
    Vector Word 50 :=
  let base := (List.finRange 12).foldl
    (fun p g => writeGroup u g (g == 0 && m == .source) p) pt
  let withId := writeOnes u (fun j => c.id.getLsbD j) (fun j => Fin.ofNat 12 (5 - j)) (List.range 6) base
  let withUnit :=
    writeOnes u (fun j => c.unit.getLsbD j) (fun j => Fin.ofNat 12 (6 + 3 - j)) (List.range 4) withId
  let withState :=
    writeGroup u 11 (if m = .source then true else c.on) (writeGroup u 10 false withUnit)
  (withState.set 48 (slotWord u)).set 49 (slotWord (footerPulse u))

end Sys2Proof.Machine
end

