-- ==== Sys2Proof/Machine/Bus.lean ====
section
/-! DEFINITION. One bus transaction, one host event, and one turn of the host (20_memory.md R50 to
R53, R57; 70_reset_and_hazards.md R230). -/

namespace Sys2Proof.Machine

/-- One bus transaction: a read returns its word to the host and changes nothing else (R52); a write to
CTRL runs the operation its value selects, to completion (R57, R80); any other write stores (R53). -/
def transact (t : Transaction) (s : State) : Host.Outcome State Fault Refusal :=
  match t with
  | .read a => .next (s.record (busRead a s))
  | .write a v => if busTarget a = .ctrl then exec (decodeCtrl v) s else .next (busStore a v s)

/-- One host event: a bus transaction, or the reset input (R230). -/
def hostEvent (e : HostEvent) (s : State) : Host.Outcome State Fault Refusal :=
  match e with
  | .bus t => transact t s
  | .reset => .next (resetBlock s)

/-- The host does the next thing it has to do. With nothing left the block stays idle and keeps its
state (60_exceptions.md R225; log 3). -/
def hostTurn (s : State) : Host.Outcome State Fault Refusal :=
  match s.pending with
  | [] => .next s
  | e :: rest => hostEvent e (s.setPending rest)

/-- The host is about to write `v` to CTRL, before everything else it has to do (log 4). -/
def queueCtrlWrite (v : Word) (s : State) : State :=
  s.setPending (.bus (.write 0x00 v) :: s.pending)

end Sys2Proof.Machine
end

