-- ==== Sys2Proof/Machine/Step.lean ====
section
/-! DEFINITION. One step of the machine. The block steps only in response to what the host does
(10_state.md R20) and fetches no instruction (R21). -/

namespace Sys2Proof.Machine

/-- One step: the host's next turn. -/
def step (s : State) : Host.Outcome State Fault Refusal := hostTurn s

/-- The state in which the very next step is a CTRL write of the given word (log 4). -/
def State.withFetchWord (s : State) (nbits w : Nat) : State := queueCtrlWrite (tableWord nbits w) s

end Sys2Proof.Machine
end

