-- ==== Sys2Proof/Machine/Script.lean ====
section
/-! DEFINITION. The host-script statements and the bus transactions each stands for
(30_encoding.md R85 to R91). `none` is a script error: no transaction. -/

namespace Sys2Proof.Machine

/-- The target of a `WR` or `RD` (R85): a register or slot by its name, or a word address literal. -/
inductive ScriptTarget where
  | named (t : BusTarget)
  | address (a : Nat)
  deriving DecidableEq, Repr

/-- The state word of a `SETCMD` (R88). -/
inductive StateWord where
  | on
  | off
  | both
  | none
  deriving DecidableEq, Repr

/-- A command-line flag of a `SEND` (R90). -/
inductive CliFlag where
  /-- `-t`, `--on` -/
  | on
  /-- `-f`, `--off` -/
  | off
  /-- `-u N`, `--unit=N` -/
  | unit (n : Int)
  /-- `-i N`, `--id=N` -/
  | id (n : Int)
  deriving DecidableEq, Repr

/-- A statement of a host script (R85 to R91). -/
inductive Stmt where
  | wr (t : ScriptTarget) (v : Int)
  | rd (t : ScriptTarget)
  | nop
  | encode
  | decode
  | validate
  | setCfg (unit : Int) (mode : EncMode)
  | setCmd (id unit : Option Int) (w : StateWord)
  | loadPt (values : List Int)
  | dumpPt
  | send (flags : List CliFlag)
  deriving DecidableEq, Repr

/-- The word address of a target; a literal is 0x00 to 0x7F (R85). -/
def ScriptTarget.addr : ScriptTarget → Option Addr
  | .named t => addrOfTarget t
  | .address a => if a ≤ 0x7F then some (BitVec.ofNat 7 a) else none

/-- The 32-bit word of a value in `−2^31 .. 2^32 − 1`, two's complement when negative (R85). -/
def scriptWord (v : Int) : Option Word :=
  if -2 ^ 31 ≤ v ∧ v ≤ 2 ^ 32 - 1 then some (BitVec.ofInt 32 v) else none

/-- `WR <target>, <value>` (R85). -/
def expandWrite (t : ScriptTarget) (v : Int) : Option (List Transaction) :=
  t.addr.bind fun a => (scriptWord v).map fun w => [.write a w]

/-- `RD <target>` (R85). -/
def expandRead (t : ScriptTarget) : Option (List Transaction) := t.addr.map fun a => [.read a]

/-- `WR CTRL, v`, the expansion of the four operation statements (R86). -/
def ctrlWrite (v : Word) : List Transaction := [.write 0x00 v]

/-- `SETCFG`: `WR CFG, (mode_bit << 1) | sel`; a unit other than 264 and 258 is a script error
(R87). -/
def expandSetCfg (unit : Int) (mode : EncMode) : Option (List Transaction) :=
  let modeBit : Word := if mode = .frame then 1 else 0
  if unit = 264 then some [.write 0x02 (modeBit <<< 1 ||| 0)]
  else if unit = 258 then some [.write 0x02 (modeBit <<< 1 ||| 1)]
  else none

/-- The IN_FLAGS value of a `SETCMD` (R88). -/
def setCmdFlags (id unit : Option Int) (w : StateWord) : Word :=
  BitVec.ofNat 32 ((if id.isSome then 1 else 0) + (if unit.isSome then 2 else 0) +
    (if w = .on ∨ w = .both then 4 else 0) + (if w = .off ∨ w = .both then 8 else 0))

/-- `SETCMD`: the writes to IN_ID, IN_UNIT and IN_FLAGS, in this order (R88). -/
def expandSetCmd (id unit : Option Int) (w : StateWord) : Option (List Transaction) :=
  (scriptWord (id.getD 0)).bind fun i =>
    (scriptWord (unit.getD 0)).map fun u =>
      [.write 0x04 i, .write 0x05 u, .write 0x03 (setCmdFlags id unit w)]

/-- The writes `WR PT[k], v` for the values in turn, from slot `k` on (R89). -/
def slotWrites (k : Nat) : List Int → Option (List Transaction)
  | [] => some []
  | v :: vs =>
    (scriptWord v).bind fun w =>
      (slotWrites (k + 1) vs).map fun ts => .write (BitVec.ofNat 7 (0x10 + k)) w :: ts

/-- `LOADPT`: exactly 50 values, slot 0 first (R89). -/
def expandLoadPt (values : List Int) : Option (List Transaction) :=
  if values.length = 50 then slotWrites 0 values else none

/-- `DUMPPT`: `RD PT[k]` for k = 0 to 49 (R89). -/
def expandDumpPt : List Transaction :=
  (List.range 50).map fun k => .read (BitVec.ofNat 7 (0x10 + k))

/-- What the flags of a `SEND` name; of a value given twice the last stands (R90, R91; log 13). -/
structure SendFields where
  id : Option Int := none
  unit : Option Int := none
  on : Bool := false
  off : Bool := false
  deriving DecidableEq, Repr

/-- One flag's part of a `SEND` (R90). -/
def SendFields.apply (f : SendFields) : CliFlag → SendFields
  | .on => { f with on := true }
  | .off => { f with off := true }
  | .unit n => { f with unit := some n }
  | .id n => { f with id := some n }

/-- The state word of a `SEND`: on by `-t`, off by `-f`, both when both appear (R91). -/
def SendFields.stateWord (f : SendFields) : StateWord :=
  match f.on, f.off with
  | true, true => .both
  | true, false => .on
  | false, true => .off
  | false, false => .none

/-- `SEND`: the `SETCMD` its flags give, then `ENCODE` (R91). -/
def expandSend (flags : List CliFlag) : Option (List Transaction) :=
  let f := flags.foldl SendFields.apply {}
  (expandSetCmd f.id f.unit f.stateWord).map fun ts => ts ++ ctrlWrite 0x00000001

/-- The bus transactions a statement stands for (R85 to R91). -/
def Stmt.expand : Stmt → Option (List Transaction)
  | .wr t v => expandWrite t v
  | .rd t => expandRead t
  | .nop => some (ctrlWrite 0x00000000)
  | .encode => some (ctrlWrite 0x00000001)
  | .decode => some (ctrlWrite 0x00000002)
  | .validate => some (ctrlWrite 0x00000003)
  | .setCfg unit mode => expandSetCfg unit mode
  | .setCmd id unit w => expandSetCmd id unit w
  | .loadPt values => expandLoadPt values
  | .dumpPt => some expandDumpPt
  | .send flags => expandSend flags

/-- The transactions of a script, statement by statement; an erroneous statement makes the whole
script an error (log 16). -/
def expandScript : List Stmt → Option (List Transaction)
  | [] => some []
  | st :: rest =>
    st.expand.bind fun ts => (expandScript rest).map fun more => ts ++ more

/-- The host about to issue these transactions and nothing else. -/
def State.withTransactions (s : State) (ts : List Transaction) : State :=
  s.setPending (ts.map .bus)

/-- One upper-case hexadecimal digit. -/
def hexDigit (n : Nat) : Char :=
  if n % 16 < 10 then Char.ofNat (48 + n % 16) else Char.ofNat (55 + n % 16)

/-- The number in `digits` hexadecimal digits, the most significant first. -/
def hexText : Nat → Nat → List Char
  | 0, _ => []
  | digits + 1, n => hexDigit (n / 16 ^ digits) :: hexText digits n

/-- A transaction as R85 writes it: `W aa dddddddd` or `R aa`. -/
def Transaction.encoding : Transaction → List Char
  | .read a => ['R', ' '] ++ hexText 2 a.toNat
  | .write a v => ['W', ' '] ++ hexText 2 a.toNat ++ [' '] ++ hexText 8 v.toNat

end Sys2Proof.Machine
end

