-- ==== Sys2Proof/Safety.lean ====
section
/-! DEFINITION. What claims about this machine are said in: the acceptance set of the validator, legal
STATUS values, two states with the same block, and host events that leave a word alone. -/

namespace Sys2Proof.Machine

/-- The command in the input registers is one the validator accepts (40_validator.md R107). -/
abbrev Accepted (s : State) : Prop :=
  s.inFlags.getLsbD 0 = true ∧ s.inFlags.getLsbD 1 = true ∧
    (s.inFlags.getLsbD 2 = true ∨ s.inFlags.getLsbD 3 = true) ∧
    (0 ≤ s.inId.toInt ∧ s.inId.toInt ≤ 63) ∧ (0 ≤ s.inUnit.toInt ∧ s.inUnit.toInt ≤ 15)

/-- STATUS holds an outcome an operation can leave: ERR is 0 to 4, and OUT_VALID is set only with
ERR = 0 (10_state.md R24, R25). -/
abbrev StatusLegal (s : State) : Prop := s.err.toNat ≤ 4 ∧ (s.outValid = true → s.err = 0)

/-- The block is in the same state in both; the host's own fields may differ (10_state.md R22, R38). -/
abbrev SameBlock (s t : State) : Prop :=
  t = { s with pending := t.pending, recorded := t.recorded }

/-- The event can not change the word at address `a`: it is no reset, no CTRL write, and no write to
`a` itself. -/
def leavesAlone (a : Addr) : HostEvent → Bool
  | .bus (.read _) => true
  | .bus (.write b _) => b != 0x00 && b != a
  | .reset => false

/-- `k` steps from `s` all have a next state, and the last is `t`. -/
abbrev RunsTo (k : Nat) (s t : State) : Prop := Host.Core.run Sys2Proof.core k s = .next t

end Sys2Proof.Machine
end

