-- ==== Sys2Proof/Certificates/Slice0/Obligations.lean ====
section
/-! DEFINITION. The statements for the provers. Each docstring names the rule of spec/ it formalises, or
says that it rests on the model's own choice and in which log entry. -/

open Sys2Proof Sys2Proof.Machine

/-! ### Encoding of operations -/

/-- 30_encoding.md R80: the operation of a CTRL word, by the table of exact values and by R80's decoder
on RSV = v[31:4] and OP = v[3:0]. -/
def Obligations.CtrlWordSelectsOperation : Prop :=
  ∀ v : Word,
    (decodeCtrl v =
      if v = 0x00000000#32 then .nop
      else if v = 0x00000001#32 then .encode
      else if v = 0x00000002#32 then .decode
      else if v = 0x00000003#32 then .validate
      else .badOp v) ∧
    (v.toNat / 16 ≠ 0 → decodeCtrl v = .badOp v) ∧
    (v.toNat / 16 = 0 → v.toNat % 16 = 0 → decodeCtrl v = .nop) ∧
    (v.toNat / 16 = 0 → v.toNat % 16 = 1 → decodeCtrl v = .encode) ∧
    (v.toNat / 16 = 0 → v.toNat % 16 = 2 → decodeCtrl v = .decode) ∧
    (v.toNat / 16 = 0 → v.toNat % 16 = 3 → decodeCtrl v = .validate) ∧
    (v.toNat / 16 = 0 → 4 ≤ v.toNat % 16 → decodeCtrl v = .badOp v)

/-- 30_encoding.md R80, R83: decoding an encoded well-formed operation gives it back, and every word is
the encoding of the well-formed operation it decodes to. That a BAD_OP term keeps its word is the
model's choice (log 9). -/
def Obligations.DecodeAndEncodeAgree : Prop :=
  (∀ i : Instr, i.wf = true → decodeCtrl (encodeCtrl i) = i) ∧
  ∀ w : Word, (decodeCtrl w).wf = true ∧ encodeCtrl (decodeCtrl w) = w

/-- 30_encoding.md R80 and 95_test_vectors.md §2.5: the words written out from the table. -/
def Obligations.SampleWordsDecode : Prop :=
  decodeCtrl 0x00000000#32 = .nop ∧ decodeCtrl 0x00000001#32 = .encode ∧
  decodeCtrl 0x00000002#32 = .decode ∧ decodeCtrl 0x00000003#32 = .validate ∧
  decodeCtrl 0x00000004#32 = .badOp 0x00000004#32 ∧
  decodeCtrl 0x0000000F#32 = .badOp 0x0000000F#32 ∧
  decodeCtrl 0x00000010#32 = .badOp 0x00000010#32 ∧
  decodeCtrl 0x00000011#32 = .badOp 0x00000011#32 ∧
  decodeCtrl 0xFFFFFFFF#32 = .badOp 0xFFFFFFFF#32

/-! ### The step -/

/-- 00_scope.md R15, 30_encoding.md R80: when the host's next event is a write of `v` to CTRL, the step
is the operation `v` selects, run on the state with that event taken off the host's list (the list is
the model's own, log 1). -/
def Obligations.StepRunsDecodedOperation : Prop :=
  ∀ (s : State) (v : Word) (rest : List HostEvent),
    s.pending = .bus (.write 0x00 v) :: rest →
    step s = exec (decodeCtrl v) { s with pending := rest }

/-- The model's own `withFetchWord` (log 4): the next step runs the operation of the table word, which
is the one `decodeTableWord` reads, on the state it was given. -/
def Obligations.FetchWordRunsItsOperation : Prop :=
  ∀ (s : State) (w : Nat), w < 2 ^ 32 →
    decodeTableWord 32 w = some (decodeCtrl (BitVec.ofNat 32 w)) ∧
    step (s.withFetchWord 32 w) = exec (decodeCtrl (BitVec.ofNat 32 w)) s

/-- No step stops: it has a next state, whatever is next, and that event is then off the host's list. For
a transaction this is 20_memory.md R51, for the reset event 70_reset_and_hazards.md R230. That a step with
nothing for the host to do has a next state, and that the host's list is the model's and is kept across a
reset, are the model's choice (logs 3, 1, 10). -/
def Obligations.StepNeverStops : Prop :=
  ∀ s : State, ∃ t : State, step s = .next t ∧ t.pending = s.pending.tail

/-- The model's own choice (log 3), after 60_exceptions.md R225: with nothing for the host to do, a step
keeps the state. -/
def Obligations.IdleStepKeepsState : Prop :=
  ∀ s : State, s.pending = [] → step s = .next s

/-! ### Bus reads and writes -/

/-- 20_memory.md R52: the word a read returns, address by address, and that a read changes nothing of
the block. The host's list and its record of the word are the model's own (logs 1, 2). -/
def Obligations.ReadReturnsAddressedWord : Prop :=
  ∀ (s : State) (a : Addr) (rest : List HostEvent),
    s.pending = .bus (.read a) :: rest →
    ∃ w : Word,
      step s = .next { s with pending := rest, recorded := s.recorded ++ [w] } ∧
      (a.toNat = 0x00 → w = 0) ∧
      (a.toNat = 0x01 → w.toNat = s.status.toNat) ∧
      (a.toNat = 0x02 → w.toNat = s.cfg.toNat) ∧
      (a.toNat = 0x03 → w.toNat = s.inFlags.toNat) ∧
      (a.toNat = 0x04 → w = s.inId) ∧
      (a.toNat = 0x05 → w = s.inUnit) ∧
      (a.toNat = 0x06 →
        w.toNat = s.outCmd.on.toNat * 2 ^ 16 + s.outCmd.unit.toNat * 2 ^ 8 + s.outCmd.id.toNat) ∧
      (a.toNat = 0x07 → w.toNat = s.frame.toNat) ∧
      (∀ k : Fin 50, a.toNat = 0x10 + k.val → w = s.pt[k]) ∧
      ((0x08 ≤ a.toNat ∧ a.toNat ≤ 0x0F) ∨ 0x42 ≤ a.toNat → w = 0)

/-- 20_memory.md R53: what a write does, address by address, and that it changes nothing
else. The host's list, which the write is taken off, is the model's own (log 1). -/
def Obligations.WriteChangesAddressedWord : Prop :=
  ∀ (s : State) (a : Addr) (v : Word) (rest : List HostEvent),
    s.pending = .bus (.write a v) :: rest →
    (a.toNat = 0x00 → step s = exec (decodeCtrl v) { s with pending := rest }) ∧
    (a.toNat = 0x02 →
      step s = .next { s with pending := rest, cfg := BitVec.ofNat 2 (v.toNat % 4) }) ∧
    (a.toNat = 0x03 →
      step s = .next { s with pending := rest, inFlags := BitVec.ofNat 4 (v.toNat % 16) }) ∧
    (a.toNat = 0x04 → step s = .next { s with pending := rest, inId := v }) ∧
    (a.toNat = 0x05 → step s = .next { s with pending := rest, inUnit := v }) ∧
    (∀ k : Fin 50, a.toNat = 0x10 + k.val →
      step s = .next { s with pending := rest, pt := s.pt.set k v }) ∧
    (a.toNat = 0x01 ∨ a.toNat = 0x06 ∨ a.toNat = 0x07 → step s = .next { s with pending := rest }) ∧
    ((0x08 ≤ a.toNat ∧ a.toNat ≤ 0x0F) ∨ 0x42 ≤ a.toNat → step s = .next { s with pending := rest })

/-- 20_memory.md R52, R53: a word written reads back, cut to the bits its register has; a word that is
not written, or cannot be, reads as before. -/
def Obligations.WrittenWordReadsBack : Prop :=
  ∀ (a b : Addr) (v : Word) (s : State), a ≠ 0x00 →
    ∃ t : State, transact (.write a v) s = .next t ∧
      (a.toNat = 0x02 → busRead a t = v &&& 0x3#32) ∧
      (a.toNat = 0x03 → busRead a t = v &&& 0xF#32) ∧
      (a.toNat = 0x04 ∨ a.toNat = 0x05 ∨ (0x10 ≤ a.toNat ∧ a.toNat ≤ 0x41) → busRead a t = v) ∧
      (a.toNat = 0x01 ∨ (0x06 ≤ a.toNat ∧ a.toNat ≤ 0x0F) ∨ 0x42 ≤ a.toNat →
        busRead a t = busRead a s) ∧
      (b ≠ a → busRead b t = busRead b s)

/-- 20_memory.md R58: reads have no side effect and repeat their word; a write other than to CTRL
touches its own word only and may be repeated; a CTRL write repeated with nothing in between leaves
the same state. -/
def Obligations.RepeatedTransactionChangesNothingMore : Prop :=
  (∀ (a : Addr) (s : State), ∃ (t u : State) (w : Word),
    transact (.read a) s = .next t ∧ SameBlock s t ∧ t.recorded = s.recorded ++ [w] ∧
    transact (.read a) t = .next u ∧ SameBlock s u ∧ u.recorded = s.recorded ++ [w, w]) ∧
  (∀ (a : Addr) (v : Word) (s : State), a ≠ 0x00 → ∃ t : State,
    transact (.write a v) s = .next t ∧ (∀ b : Addr, b ≠ a → busRead b t = busRead b s) ∧
    transact (.write a v) t = .next t) ∧
  (∀ (v : Word) (s : State), ∃ t : State,
    transact (.write 0x00 v) s = .next t ∧ transact (.write 0x00 v) t = .next t)

/-! ### Reset -/

/-- 70_reset_and_hazards.md R230: the reset event sets every state element of the block to 0, from any
state. -/
def Obligations.ResetSetsEveryElement : Prop :=
  ∀ (s : State) (rest : List HostEvent), s.pending = .reset :: rest →
    ∃ t : State, step s = .next t ∧
      t.status = 0 ∧ t.cfg = 0 ∧ t.inFlags = 0 ∧ t.inId = 0 ∧ t.inUnit = 0 ∧
      t.outCmd.id = 0 ∧ t.outCmd.unit = 0 ∧ t.outCmd.on = false ∧ t.frame = 0 ∧
      (∀ k : Fin 50, t.pt[k] = 0) ∧ busRead 0x00 t = 0 ∧ SameBlock State.reset t

/-- 95_test_vectors.md §2.7, 70_reset_and_hazards.md R230: every read after reset returns 0. -/
def Obligations.EveryReadAfterResetIsZero : Prop :=
  ∀ a : Addr, busRead a State.reset = 0

/-! ### NOP and BAD_OP -/

/-- 44_control.md R180: NOP has a next state, the same one; the word 0x00000010 is not NOP but
BAD_OP. -/
def Obligations.NopChangesNothing : Prop :=
  (∀ s : State, exec .nop s = .next s) ∧
  decodeCtrl 0x00000000#32 = .nop ∧ decodeCtrl 0x00000010#32 = .badOp 0x00000010#32

/-- 44_control.md R181, 30_encoding.md R83: BAD_OP writes STATUS = 4 and nothing else, and every CTRL
value with RSV ≠ 0 or OP ≥ 4 performs it. The host's list is the model's own (log 1), and so is the word a
BAD_OP term keeps (log 9). -/
def Obligations.ReservedValueWritesOnlyStatus : Prop :=
  (∀ (w : Word) (s : State), exec (.badOp w) s = .next { s with status := 4#4 }) ∧
  ∀ (s : State) (v : Word) (rest : List HostEvent),
    s.pending = .bus (.write 0x00 v) :: rest → v.toNat / 16 ≠ 0 ∨ 4 ≤ v.toNat % 16 →
    step s = .next { s with pending := rest, status := 4#4 }

/-! ### VALIDATE -/

/-- 40_validator.md R100 to R104: the outcome of VALIDATE in every state: one error, in the order
MISSING_FIELD, ID_OUT_OF_RANGE, UNIT_OUT_OF_RANGE, with only STATUS written, or the command. -/
def Obligations.ValidateReportsFirstErrorOrCommand : Prop :=
  ∀ s : State, exec .validate s = .next (
    if (s.inFlags.getLsbD 2 = false ∧ s.inFlags.getLsbD 3 = false) ∨ s.inFlags.getLsbD 0 = false ∨
        s.inFlags.getLsbD 1 = false then { s with status := 1#4 }
    else if s.inId.toInt < 0 ∨ 63 < s.inId.toInt then { s with status := 2#4 }
    else if s.inUnit.toInt < 0 ∨ 15 < s.inUnit.toInt then { s with status := 3#4 }
    else { s with
      status := 8#4
      outCmd := {
        id := BitVec.ofNat 6 (s.inId.toNat % 64)
        unit := BitVec.ofNat 4 (s.inUnit.toNat % 16)
        on := !s.inFlags.getLsbD 3 } })

/-- 40_validator.md R107: VALIDATE succeeds exactly on the acceptance set, here with the ranges read as
unsigned words; 64 and −1 as id, 16 and −1 as unit are rejected with their own codes. -/
def Obligations.ValidateAcceptsExactlyTheRanges : Prop :=
  ∀ s : State, ∃ t : State, exec .validate s = .next t ∧
    (t.status = 8#4 ↔
      s.inFlags.getLsbD 0 = true ∧ s.inFlags.getLsbD 1 = true ∧
      (s.inFlags.getLsbD 2 = true ∨ s.inFlags.getLsbD 3 = true) ∧
      s.inId.toNat ≤ 63 ∧ s.inUnit.toNat ≤ 15) ∧
    (s.inFlags.getLsbD 0 = true → s.inFlags.getLsbD 1 = true →
      s.inFlags.getLsbD 2 = true ∨ s.inFlags.getLsbD 3 = true →
      (s.inId = 64#32 ∨ s.inId = BitVec.ofInt 32 (-1) → t.status = 2#4) ∧
      (s.inId.toNat ≤ 63 → s.inUnit = 16#32 ∨ s.inUnit = BitVec.ofInt 32 (-1) → t.status = 3#4))

/-- 40_validator.md R105, R106: on an accepted command the id and unit reported by VALIDATE and by
ENCODE equal the input registers, and the state is on exactly when OFF is not set, so off wins when
both flags are. -/
def Obligations.AcceptedCommandIsEchoedAndOffWins : Prop :=
  ∀ s : State, Accepted s → ∀ i : Instr, i = .validate ∨ i = .encode →
    ∃ t : State, exec i s = .next t ∧ t.status = 8#4 ∧
      t.outCmd.id.toNat = s.inId.toNat ∧ t.outCmd.unit.toNat = s.inUnit.toNat ∧
      (t.outCmd.on = true ↔ s.inFlags.getLsbD 2 = true ∧ s.inFlags.getLsbD 3 = false) ∧
      t.inFlags = s.inFlags ∧ t.inId = s.inId ∧ t.inUnit = s.inUnit

/-! ### ENCODE -/

/-- 42_encoder.md R152: a failed ENCODE, one that leaves an error code, is one whose command is not
accepted, and it writes only STATUS. -/
def Obligations.FailedEncodeWritesOnlyStatus : Prop :=
  ∀ s : State, ∃ t : State, exec .encode s = .next t ∧ (t.err ≠ 0 ↔ ¬ Accepted s) ∧
    (t.err ≠ 0 → t = { s with status := t.status } ∧ t.outValid = false)

/-- 42_encoder.md R140, R144, R145: ENCODE in full. On a command that is not accepted only STATUS is
written, with VALIDATE's code. On an accepted one: STATUS, OUT_CMD, FRAME as a number, every Pulse
Train slot as a number from FRAME's bits, the footer, and everything else as before. -/
def Obligations.EncodeWritesCommandFrameTrain : Prop :=
  ∀ s : State,
    (¬ Accepted s → ∃ c : BitVec 4, 1 ≤ c.toNat ∧ c.toNat ≤ 3 ∧
      exec .encode s = .next { s with status := c } ∧ exec .validate s = .next { s with status := c }) ∧
    (Accepted s → ∃ t : State, exec .encode s = .next t ∧
      t = { s with status := 8#4, outCmd := t.outCmd, frame := t.frame, pt := t.pt } ∧
      t.outCmd.id.toNat = s.inId.toNat ∧ t.outCmd.unit.toNat = s.inUnit.toNat ∧
      t.outCmd.on = !s.inFlags.getLsbD 3 ∧
      (s.cfg.getLsbD 1 = true → t.frame.toNat =
        s.inId.toNat * 64 + s.inUnit.toNat * 4 + (!s.inFlags.getLsbD 3).toNat) ∧
      (s.cfg.getLsbD 1 = false → t.frame.toNat =
        (s.inId.toNat * 64 + s.inUnit.toNat * 4 + (!s.inFlags.getLsbD 3).toNat) ||| 0x801) ∧
      t.frame.getLsbD 1 = false ∧
      ∀ u : Nat, u = (if s.cfg.getLsbD 0 then 258 else 264) →
        (∀ g : Fin 12,
          (t.pt[4 * g.val]'(by omega)).toNat = u ∧ (t.pt[4 * g.val + 1]'(by omega)).toNat = 3 * u ∧
          (t.pt[4 * g.val + 2]'(by omega)).toNat =
            (if t.frame.getLsbD (11 - g.val) then u else 3 * u) ∧
          (t.pt[4 * g.val + 3]'(by omega)).toNat =
            (if t.frame.getLsbD (11 - g.val) then 3 * u else u)) ∧
        t.pt[48].toNat = u ∧ t.pt[49].toNat = Config.footerDiv * u)

/-- 42_encoder.md R141, R142, R143: the Bit Frame an accepted ENCODE leaves in FRAME, position by
position: the layout in FRAME mode, positions 0 and 11 forced to 1 in SOURCE mode. -/
def Obligations.FramePositionsFollowLayout : Prop :=
  ∀ s : State, Accepted s →
    ∃ t : State, exec .encode s = .next t ∧
      (∀ k : Nat, 1 ≤ k → k ≤ 5 → t.frame.getLsbD (11 - k) = s.inId.getLsbD (5 - k)) ∧
      (∀ k : Nat, k ≤ 3 → t.frame.getLsbD (11 - (6 + k)) = s.inUnit.getLsbD (3 - k)) ∧
      t.frame.getLsbD (11 - 10) = false ∧
      (s.cfg.getLsbD 1 = true →
        t.frame.getLsbD 11 = s.inId.getLsbD 5 ∧ t.frame.getLsbD 0 = !s.inFlags.getLsbD 3) ∧
      (s.cfg.getLsbD 1 = false → t.frame.getLsbD 11 = true ∧ t.frame.getLsbD 0 = true)

/-- 42_encoder.md R146: what an accepted ENCODE leaves depends on CFG and the command inputs alone, not
on what PT, OUT_CMD, FRAME or STATUS held before. -/
def Obligations.EncodeDependsOnInputsOnly : Prop :=
  ∀ r s : State, Accepted s → r.cfg = s.cfg → r.inFlags = s.inFlags → r.inId = s.inId →
    r.inUnit = s.inUnit →
    ∃ t : State, exec .encode s = .next t ∧
      exec .encode r = .next { t with pending := r.pending, recorded := r.recorded }

/-- 42_encoder.md R147: the source's step-by-step procedure, run on any buffer, leaves the Pulse Train
an accepted ENCODE writes, in each mode; and scanning a field only up to its value's bit length does
what scanning all its positions does. -/
def Obligations.SourceProcedureWritesSameTrain : Prop :=
  ∀ s : State, Accepted s →
    ∃ t : State, exec .encode s = .next t ∧
      (∀ old : Vector Word 50,
        procedureTrain (if s.cfg.getLsbD 0 then 258 else 264) t.outCmd
          (if s.cfg.getLsbD 1 then .frame else .source) old = t.pt) ∧
      ∀ (u n m : Nat) (buf : Vector Word 50),
        n ≤ 6 → s.inId.toNat < 2 ^ n → m ≤ 4 → s.inUnit.toNat < 2 ^ m →
        writeOnes u (fun j => t.outCmd.id.getLsbD j) (fun j => Fin.ofNat 12 (5 - j)) (List.range n) buf =
          writeOnes u (fun j => t.outCmd.id.getLsbD j) (fun j => Fin.ofNat 12 (5 - j)) (List.range 6)
            buf ∧
        writeOnes u (fun j => t.outCmd.unit.getLsbD j) (fun j => Fin.ofNat 12 (6 + 3 - j))
            (List.range m) buf =
          writeOnes u (fun j => t.outCmd.unit.getLsbD j) (fun j => Fin.ofNat 12 (6 + 3 - j))
            (List.range 4) buf

/-- 42_encoder.md R150: in FRAME mode a DECODE of the train an accepted ENCODE wrote, with the same
timing unit and whatever else the state holds by then, returns the validated command and the same
Bit Frame. -/
def Obligations.RoundTripInFrameMode : Prop :=
  ∀ s : State, Accepted s → s.cfg.getLsbD 1 = true →
    ∃ t : State, exec .encode s = .next t ∧
      ∀ r : State, r.pt = t.pt → r.cfg.getLsbD 0 = s.cfg.getLsbD 0 →
        ∃ d : State, exec .decode r = .next d ∧ d.status = 8#4 ∧
          d.outCmd.id.toNat = s.inId.toNat ∧ d.outCmd.unit.toNat = s.inUnit.toNat ∧
          d.outCmd.on = (!s.inFlags.getLsbD 3) ∧ d.outCmd = t.outCmd ∧ d.frame = t.frame

/-- 42_encoder.md R151: in SOURCE mode the same round trip returns (id | 32, unit, on); it returns the
command itself exactly when the id is at least 32 and the state is on. -/
def Obligations.RoundTripInSourceMode : Prop :=
  ∀ s : State, Accepted s → s.cfg.getLsbD 1 = false →
    ∃ t : State, exec .encode s = .next t ∧
      ∀ r : State, r.pt = t.pt → r.cfg.getLsbD 0 = s.cfg.getLsbD 0 →
        ∃ d : State, exec .decode r = .next d ∧
          d.outCmd.id.toNat = s.inId.toNat ||| 32 ∧ d.outCmd.unit.toNat = s.inUnit.toNat ∧
          d.outCmd.on = true ∧
          (d.outCmd = t.outCmd ↔ 32 ≤ s.inId.toNat ∧ s.inFlags.getLsbD 3 = false)

/-- 70_reset_and_hazards.md R234: a DECODE of an accepted ENCODE's train under the other timing unit
reads every bit as 0: the command (0, 0, off), FRAME 0. -/
def Obligations.TimingUnitMismatchDecodesToZero : Prop :=
  ∀ s : State, Accepted s →
    ∃ t : State, exec .encode s = .next t ∧
      ∀ r : State, r.pt = t.pt → r.cfg.getLsbD 0 ≠ s.cfg.getLsbD 0 →
        ∃ d : State, exec .decode r = .next d ∧
          d.outCmd = { id := 0, unit := 0, on := false } ∧ d.frame = 0 ∧ d.status = 8#4

/-! ### DECODE -/

/-- 43_decoder.md R160, R162: DECODE in full, in every state: bit `g` is 1 when slot `4g + 3` is exactly
three timing units, the command and FRAME are the weighted sums of the bits, STATUS is 8, and
everything else is as before. -/
def Obligations.DecodeWritesCommandAndFrame : Prop :=
  ∀ s : State, ∃ t : State, exec .decode s = .next t ∧
    t = { s with status := 8#4, outCmd := t.outCmd, frame := t.frame } ∧
    ∀ b : Fin 12 → Nat,
      (∀ g : Fin 12, b g = if (s.pt[4 * g.val + 3]'(by omega)).toNat =
        3 * (if s.cfg.getLsbD 0 then 258 else 264) then 1 else 0) →
      t.outCmd.id.toNat = b 0 * 32 + b 1 * 16 + b 2 * 8 + b 3 * 4 + b 4 * 2 + b 5 ∧
      t.outCmd.unit.toNat = b 6 * 8 + b 7 * 4 + b 8 * 2 + b 9 ∧
      t.outCmd.on.toNat = b 11 ∧
      t.frame.toNat = b 0 * 2048 + b 1 * 1024 + b 2 * 512 + b 3 * 256 + b 4 * 128 + b 5 * 64 +
        b 6 * 32 + b 7 * 16 + b 8 * 8 + b 9 * 4 + b 10 * 2 + b 11

/-- 43_decoder.md R164: DECODE depends on CFG.UNIT_SEL and on the slots `4g + 3` only. -/
def Obligations.DecodeReadsUnitAndFourthSlotsOnly : Prop :=
  ∀ r s : State, r.cfg.getLsbD 0 = s.cfg.getLsbD 0 →
    (∀ g : Fin 12, r.pt[4 * g.val + 3]'(by omega) = s.pt[4 * g.val + 3]'(by omega)) →
    ∃ t u : State, exec .decode r = .next t ∧ exec .decode s = .next u ∧
      t.outCmd = u.outCmd ∧ t.frame = u.frame ∧ t.status = u.status

/-- 43_decoder.md R163: position 10 is classified into FRAME[1] like every other, and the command does
not depend on it. -/
def Obligations.ReservedPositionOnlyShowsInFrame : Prop :=
  ∀ r s : State, r.cfg.getLsbD 0 = s.cfg.getLsbD 0 →
    (∀ g : Fin 12, g ≠ 10 → r.pt[4 * g.val + 3]'(by omega) = s.pt[4 * g.val + 3]'(by omega)) →
    ∃ t u : State, exec .decode r = .next t ∧ exec .decode s = .next u ∧
      t.outCmd = u.outCmd ∧
      (t.frame.getLsbD 1 = true ↔ r.pt[43].toNat = 3 * (if r.cfg.getLsbD 0 then 258 else 264)) ∧
      ∀ j : Nat, j ≠ 1 → t.frame.getLsbD j = u.frame.getLsbD j

/-! ### Timing values and the classifier -/

/-- 41_pulse_lut.md R124: the complete timing LUT. -/
def Obligations.TimingLutEntries : Prop :=
  (pattern (Config.unitTable false) false).toList = [264, 792, 792, 264] ∧
  (pattern (Config.unitTable false) true).toList = [264, 792, 264, 792] ∧
  (pattern (Config.unitTable true) false).toList = [258, 774, 774, 258] ∧
  (pattern (Config.unitTable true) true).toList = [258, 774, 258, 774]

/-- 41_pulse_lut.md R127, R128: a slot is HIGH exactly when it equals `M·u` as a 32-bit value, LOW
otherwise, and a group's bit is the class of its fourth slot. -/
def Obligations.ClassifierIsExactEquality : Prop :=
  ∀ (s : State) (u : Nat), u = (if s.cfg.getLsbD 0 then 258 else 264) →
    s.timingUnit = u ∧
    (∀ v : Word, (v.toNat = 3 * u → classify u v = .high) ∧ (v.toNat ≠ 3 * u → classify u v = .low)) ∧
    ∀ g : Fin 12, bitOf u s.pt g = true ↔ (s.pt[4 * g.val + 3]'(by omega)).toNat = 3 * u

/-- 41_pulse_lut.md R125: no timing product overflows a slot, for every FOOTER_DIV in its range. -/
def Obligations.TimingProductsAreExact : Prop :=
  ∀ sel : Bool, 1 ≤ Config.footerDiv ∧ Config.footerDiv ≤ 16268815 ∧
    (slotWord (longPulse (Config.unitTable sel))).toNat = 3 * Config.unitTable sel ∧
    (slotWord (footerPulse (Config.unitTable sel))).toNat = Config.footerDiv * Config.unitTable sel ∧
    3 * Config.unitTable sel ≤ 792 ∧ Config.footerDiv * Config.unitTable sel < 2 ^ 32

/-! ### The whole machine -/

/-- 60_exceptions.md R203: an operation other than NOP either succeeds, with STATUS = 8, or ends with an
error code 1 to 4 and OUT_VALID = 0 and writes nothing but STATUS. -/
def Obligations.OperationSucceedsOrChangesOnlyStatus : Prop :=
  ∀ (i : Instr) (s : State), i ≠ .nop →
    (∃ t : State, exec i s = .next t ∧ t.err = 0 ∧ t.outValid = true) ∨
    ∃ (c : Nat) (t : State), 1 ≤ c ∧ c ≤ 4 ∧ exec i s = .next t ∧
      t = { s with status := t.status } ∧ t.err.toNat = c ∧ t.outValid = false

/-- The frame of every operation (60_exceptions.md R201, and the "Not touched" and "Flags written" lines
of R100, R140, R160, R180, R181): no operation writes CFG, the inputs, or what the host has left to do
and has recorded; only ENCODE writes PT; only ENCODE and DECODE write FRAME; NOP and BAD_OP leave
OUT_CMD, and NOP leaves STATUS. -/
def Obligations.OperationsLeaveTheRestAlone : Prop :=
  ∀ (i : Instr) (s t : State), exec i s = .next t →
    t.cfg = s.cfg ∧ t.inFlags = s.inFlags ∧ t.inId = s.inId ∧ t.inUnit = s.inUnit ∧
    t.pending = s.pending ∧ t.recorded = s.recorded ∧
    (i ≠ .encode → t.pt = s.pt) ∧
    (i ≠ .encode → i ≠ .decode → t.frame = s.frame) ∧
    (i = .nop ∨ (∃ w, i = .badOp w) → t.outCmd = s.outCmd) ∧
    (i = .nop → t.status = s.status)

/-- 60_exceptions.md R204: STATUS keeps the last outcome until an operation other than NOP, or a reset,
overwrites it: no read, no write to another address and no NOP changes it; and there is nothing to
acknowledge: in every state, what an operation other than NOP does never depends on the STATUS it finds. The host's list and the idle
step, which keeps STATUS too, are the model's choice (logs 1, 3). -/
def Obligations.StatusKeepsLastOutcome : Prop :=
  ∀ s : State,
    ((∀ rest, s.pending ≠ .reset :: rest) →
      (∀ v rest, s.pending = .bus (.write 0x00 v) :: rest → v = 0) →
      ∃ t : State, step s = .next t ∧ t.status = s.status) ∧
    ∀ (i : Instr) (v : BitVec 4), i ≠ .nop → exec i { s with status := v } = exec i s

/-- 10_state.md R24, R25: STATUS stays an outcome an operation can leave, whatever the host does: ERR is
0 to 4, and OUT_VALID is set only with ERR = 0. The step covers the idle step and the reset event, which
are the model's choice (logs 3, 10). -/
def Obligations.StepKeepsStatusLegal : Prop :=
  ∀ s : State, StatusLegal s → ∃ t : State, step s = .next t ∧ StatusLegal t

/-- 70_reset_and_hazards.md R230 with 10_state.md R24, R25: the reset state has a legal STATUS. -/
def Obligations.ResetStatusIsLegal : Prop := StatusLegal State.reset

/-- 20_memory.md R62, 60_exceptions.md R225: over any run in which the host neither resets, nor writes
CTRL, nor writes the word at `a`, that word keeps its value. A run past the end of the
host's list idles, which is the model's choice, as the list is (logs 3, 1). -/
def Obligations.UnwrittenWordKeepsValueOverRuns : Prop :=
  ∀ (a : Addr) (k : Nat) (s : State),
    (∀ e ∈ s.pending.take k, leavesAlone a e = true) →
    ∃ t : State, RunsTo k s t ∧ busRead a t = busRead a s

/-! ### Host scripts -/

/-- 30_encoding.md R86: the four operation statements, each one CTRL write, and their encodings. -/
def Obligations.OperationStatementsAreCtrlWrites : Prop :=
  Stmt.nop.expand = some [.write 0x00 0x0#32] ∧ Stmt.encode.expand = some [.write 0x00 0x1#32] ∧
  Stmt.decode.expand = some [.write 0x00 0x2#32] ∧ Stmt.validate.expand = some [.write 0x00 0x3#32] ∧
  (Transaction.write 0x00 0x0#32).encoding = "W 00 00000000".toList ∧
  (Transaction.write 0x00 0x1#32).encoding = "W 00 00000001".toList ∧
  (Transaction.write 0x00 0x2#32).encoding = "W 00 00000002".toList ∧
  (Transaction.write 0x00 0x3#32).encoding = "W 00 00000003".toList

/-- 30_encoding.md R85: a `WR` is one write of the value's 32-bit word to the target's address, a value
outside its range is a script error; a `RD` is one read; each register name has its address in
10_state.md R22's register map, `PT[k]` has the address 0x10 + k, and a literal address is 0x00 to
0x7F. -/
def Obligations.BaseStatementsAreOneTransaction : Prop :=
  (∀ (t : ScriptTarget) (a : Addr) (v : Int), t.addr = some a →
    (Stmt.rd t).expand = some [.read a] ∧
    (-2 ^ 31 ≤ v → v ≤ 2 ^ 32 - 1 → ∃ w : Word, (Stmt.wr t v).expand = some [.write a w] ∧
      (w.toNat : Int) = v % 2 ^ 32) ∧
    (v < -2 ^ 31 ∨ 2 ^ 32 - 1 < v → (Stmt.wr t v).expand = none)) ∧
  (ScriptTarget.named .ctrl).addr = some 0x00 ∧ (ScriptTarget.named .status).addr = some 0x01 ∧
  (ScriptTarget.named .cfg).addr = some 0x02 ∧ (ScriptTarget.named .inFlags).addr = some 0x03 ∧
  (ScriptTarget.named .inId).addr = some 0x04 ∧ (ScriptTarget.named .inUnit).addr = some 0x05 ∧
  (ScriptTarget.named .outCmd).addr = some 0x06 ∧ (ScriptTarget.named .frame).addr = some 0x07 ∧
  (∀ k : Fin 50, ∃ a : Addr,
    (ScriptTarget.named (.slot k)).addr = some a ∧ a.toNat = 0x10 + k.val) ∧
  ∀ n : Nat, (ScriptTarget.address n).addr = if n ≤ 0x7F then some (BitVec.ofNat 7 n) else none

/-- 30_encoding.md R88: the three writes of a SETCMD whose values fit, in order, and what they leave: an
absent field's register 0 and its presence bit clear. -/
def Obligations.SetCmdLoadsInputs : Prop :=
  ∀ (id unit : Option Int) (w : StateWord) (s : State),
    (∀ n, id = some n ∨ unit = some n → -2 ^ 31 ≤ n ∧ n ≤ 2 ^ 32 - 1) →
    ∃ (f : Word) (ts : List Transaction) (t : State),
      ts = [.write 0x04 (BitVec.ofInt 32 (id.getD 0)), .write 0x05 (BitVec.ofInt 32 (unit.getD 0)),
        .write 0x03 f] ∧
      f.toNat = (if id = none then 0 else 1) + (if unit = none then 0 else 2) +
        (if w = .on ∨ w = .both then 4 else 0) + (if w = .off ∨ w = .both then 8 else 0) ∧
      (Stmt.setCmd id unit w).expand = some ts ∧ RunsTo 3 (s.withTransactions ts) t ∧
      t = { s with pending := [], inFlags := t.inFlags, inId := t.inId, inUnit := t.inUnit } ∧
      t.inId = BitVec.ofInt 32 (id.getD 0) ∧ t.inUnit = BitVec.ofInt 32 (unit.getD 0) ∧
      (t.inFlags.getLsbD 0 = true ↔ id ≠ none) ∧ (t.inFlags.getLsbD 1 = true ↔ unit ≠ none) ∧
      (t.inFlags.getLsbD 2 = true ↔ w = .on ∨ w = .both) ∧
      (t.inFlags.getLsbD 3 = true ↔ w = .off ∨ w = .both)

/-- 30_encoding.md R87: SETCFG is one write to CFG, which sets the timing unit and the mode; any other
unit is a script error. -/
def Obligations.SetCfgSelectsUnitAndMode : Prop :=
  ∀ (unit : Int) (mode : EncMode),
    (unit ≠ 264 → unit ≠ 258 → (Stmt.setCfg unit mode).expand = none) ∧
    (unit = 264 ∨ unit = 258 → ∀ s : State, ∃ (v : Word) (t : State),
      (Stmt.setCfg unit mode).expand = some [.write 0x02 v] ∧
      v.toNat = (if mode = .frame then 2 else 0) + (if unit = 258 then 1 else 0) ∧
      RunsTo 1 (s.withTransactions [.write 0x02 v]) t ∧
      t = { s with pending := [], cfg := t.cfg } ∧ (t.timingUnit : Int) = unit ∧ t.mode = mode)

/-- 30_encoding.md R91: a SEND is the SETCMD its flags give, then ENCODE. The flags may repeat a field if
they agree on it. -/
def Obligations.SendIsSetCmdThenEncode : Prop :=
  ∀ (flags : List CliFlag) (id unit : Option Int) (w : StateWord),
    (∀ n, .id n ∈ flags → id = some n) → ((∀ n, .id n ∉ flags) → id = none) →
    (∀ n, .unit n ∈ flags → unit = some n) → ((∀ n, .unit n ∉ flags) → unit = none) →
    (.on ∈ flags ↔ w = .on ∨ w = .both) → (.off ∈ flags ↔ w = .off ∨ w = .both) →
    (Stmt.send flags).expand = expandScript [.setCmd id unit w, .encode]

/-- 30_encoding.md R89: LOADPT takes exactly 50 values. Of values that fit, it writes slot k in
increasing k, and DUMPPT reads slot k in increasing k; run one after the other they record exactly
those values, and change nothing but PT. -/
def Obligations.LoadThenDumpReturnsTheTrain : Prop :=
  ∀ (values : List Int) (s : State),
    (values.length ≠ 50 → (Stmt.loadPt values).expand = none) ∧
    (values.length = 50 → (∀ n ∈ values, -2 ^ 31 ≤ n ∧ n ≤ 2 ^ 32 - 1) →
      ∃ (ls ds : List Transaction) (t : State),
        (Stmt.loadPt values).expand = some ls ∧ Stmt.dumpPt.expand = some ds ∧
        ls.length = 50 ∧ ds.length = 50 ∧
        (∀ k : Nat, k < 50 →
          ls[k]? = some (.write (BitVec.ofNat 7 (0x10 + k)) (BitVec.ofInt 32 (values.getD k 0))) ∧
          ds[k]? = some (.read (BitVec.ofNat 7 (0x10 + k)))) ∧
        RunsTo 100 (s.withTransactions (ls ++ ds)) t ∧
        t = { s with pending := [], pt := t.pt, recorded := t.recorded } ∧
        t.recorded = s.recorded ++ values.map (BitVec.ofInt 32))
end

