-- ==== Sys2Proof/Laws/State.lean ====
section
/-! SUPPORT. What each writer of Machine/Ops.lean does to each field of State, one lemma per field per
writer. -/

namespace Sys2Proof.Machine

variable (s : State)

@[simp] theorem State.setStatus_status (v : BitVec 4) : (s.setStatus v).status = v := rfl
@[simp] theorem State.setStatus_cfg (v : BitVec 4) : (s.setStatus v).cfg = s.cfg := rfl
@[simp] theorem State.setStatus_inFlags (v : BitVec 4) : (s.setStatus v).inFlags = s.inFlags := rfl
@[simp] theorem State.setStatus_inId (v : BitVec 4) : (s.setStatus v).inId = s.inId := rfl
@[simp] theorem State.setStatus_inUnit (v : BitVec 4) : (s.setStatus v).inUnit = s.inUnit := rfl
@[simp] theorem State.setStatus_outCmd (v : BitVec 4) : (s.setStatus v).outCmd = s.outCmd := rfl
@[simp] theorem State.setStatus_frame (v : BitVec 4) : (s.setStatus v).frame = s.frame := rfl
@[simp] theorem State.setStatus_pt (v : BitVec 4) : (s.setStatus v).pt = s.pt := rfl
@[simp] theorem State.setStatus_pending (v : BitVec 4) : (s.setStatus v).pending = s.pending := rfl
@[simp] theorem State.setStatus_recorded (v : BitVec 4) :
    (s.setStatus v).recorded = s.recorded := rfl

@[simp] theorem State.setCfg_status (v : BitVec 2) : (s.setCfg v).status = s.status := rfl
@[simp] theorem State.setCfg_cfg (v : BitVec 2) : (s.setCfg v).cfg = v := rfl
@[simp] theorem State.setCfg_inFlags (v : BitVec 2) : (s.setCfg v).inFlags = s.inFlags := rfl
@[simp] theorem State.setCfg_inId (v : BitVec 2) : (s.setCfg v).inId = s.inId := rfl
@[simp] theorem State.setCfg_inUnit (v : BitVec 2) : (s.setCfg v).inUnit = s.inUnit := rfl
@[simp] theorem State.setCfg_outCmd (v : BitVec 2) : (s.setCfg v).outCmd = s.outCmd := rfl
@[simp] theorem State.setCfg_frame (v : BitVec 2) : (s.setCfg v).frame = s.frame := rfl
@[simp] theorem State.setCfg_pt (v : BitVec 2) : (s.setCfg v).pt = s.pt := rfl
@[simp] theorem State.setCfg_pending (v : BitVec 2) : (s.setCfg v).pending = s.pending := rfl
@[simp] theorem State.setCfg_recorded (v : BitVec 2) : (s.setCfg v).recorded = s.recorded := rfl

@[simp] theorem State.setInFlags_status (v : BitVec 4) : (s.setInFlags v).status = s.status := rfl
@[simp] theorem State.setInFlags_cfg (v : BitVec 4) : (s.setInFlags v).cfg = s.cfg := rfl
@[simp] theorem State.setInFlags_inFlags (v : BitVec 4) : (s.setInFlags v).inFlags = v := rfl
@[simp] theorem State.setInFlags_inId (v : BitVec 4) : (s.setInFlags v).inId = s.inId := rfl
@[simp] theorem State.setInFlags_inUnit (v : BitVec 4) : (s.setInFlags v).inUnit = s.inUnit := rfl
@[simp] theorem State.setInFlags_outCmd (v : BitVec 4) : (s.setInFlags v).outCmd = s.outCmd := rfl
@[simp] theorem State.setInFlags_frame (v : BitVec 4) : (s.setInFlags v).frame = s.frame := rfl
@[simp] theorem State.setInFlags_pt (v : BitVec 4) : (s.setInFlags v).pt = s.pt := rfl
@[simp] theorem State.setInFlags_pending (v : BitVec 4) :
    (s.setInFlags v).pending = s.pending := rfl
@[simp] theorem State.setInFlags_recorded (v : BitVec 4) :
    (s.setInFlags v).recorded = s.recorded := rfl

@[simp] theorem State.setInId_status (v : Word) : (s.setInId v).status = s.status := rfl
@[simp] theorem State.setInId_cfg (v : Word) : (s.setInId v).cfg = s.cfg := rfl
@[simp] theorem State.setInId_inFlags (v : Word) : (s.setInId v).inFlags = s.inFlags := rfl
@[simp] theorem State.setInId_inId (v : Word) : (s.setInId v).inId = v := rfl
@[simp] theorem State.setInId_inUnit (v : Word) : (s.setInId v).inUnit = s.inUnit := rfl
@[simp] theorem State.setInId_outCmd (v : Word) : (s.setInId v).outCmd = s.outCmd := rfl
@[simp] theorem State.setInId_frame (v : Word) : (s.setInId v).frame = s.frame := rfl
@[simp] theorem State.setInId_pt (v : Word) : (s.setInId v).pt = s.pt := rfl
@[simp] theorem State.setInId_pending (v : Word) : (s.setInId v).pending = s.pending := rfl
@[simp] theorem State.setInId_recorded (v : Word) : (s.setInId v).recorded = s.recorded := rfl

@[simp] theorem State.setInUnit_status (v : Word) : (s.setInUnit v).status = s.status := rfl
@[simp] theorem State.setInUnit_cfg (v : Word) : (s.setInUnit v).cfg = s.cfg := rfl
@[simp] theorem State.setInUnit_inFlags (v : Word) : (s.setInUnit v).inFlags = s.inFlags := rfl
@[simp] theorem State.setInUnit_inId (v : Word) : (s.setInUnit v).inId = s.inId := rfl
@[simp] theorem State.setInUnit_inUnit (v : Word) : (s.setInUnit v).inUnit = v := rfl
@[simp] theorem State.setInUnit_outCmd (v : Word) : (s.setInUnit v).outCmd = s.outCmd := rfl
@[simp] theorem State.setInUnit_frame (v : Word) : (s.setInUnit v).frame = s.frame := rfl
@[simp] theorem State.setInUnit_pt (v : Word) : (s.setInUnit v).pt = s.pt := rfl
@[simp] theorem State.setInUnit_pending (v : Word) : (s.setInUnit v).pending = s.pending := rfl
@[simp] theorem State.setInUnit_recorded (v : Word) : (s.setInUnit v).recorded = s.recorded := rfl

@[simp] theorem State.setOutCmd_status (c : Command) : (s.setOutCmd c).status = s.status := rfl
@[simp] theorem State.setOutCmd_cfg (c : Command) : (s.setOutCmd c).cfg = s.cfg := rfl
@[simp] theorem State.setOutCmd_inFlags (c : Command) : (s.setOutCmd c).inFlags = s.inFlags := rfl
@[simp] theorem State.setOutCmd_inId (c : Command) : (s.setOutCmd c).inId = s.inId := rfl
@[simp] theorem State.setOutCmd_inUnit (c : Command) : (s.setOutCmd c).inUnit = s.inUnit := rfl
@[simp] theorem State.setOutCmd_outCmd (c : Command) : (s.setOutCmd c).outCmd = c := rfl
@[simp] theorem State.setOutCmd_frame (c : Command) : (s.setOutCmd c).frame = s.frame := rfl
@[simp] theorem State.setOutCmd_pt (c : Command) : (s.setOutCmd c).pt = s.pt := rfl
@[simp] theorem State.setOutCmd_pending (c : Command) : (s.setOutCmd c).pending = s.pending := rfl
@[simp] theorem State.setOutCmd_recorded (c : Command) :
    (s.setOutCmd c).recorded = s.recorded := rfl

@[simp] theorem State.setFrame_status (v : BitVec 12) : (s.setFrame v).status = s.status := rfl
@[simp] theorem State.setFrame_cfg (v : BitVec 12) : (s.setFrame v).cfg = s.cfg := rfl
@[simp] theorem State.setFrame_inFlags (v : BitVec 12) : (s.setFrame v).inFlags = s.inFlags := rfl
@[simp] theorem State.setFrame_inId (v : BitVec 12) : (s.setFrame v).inId = s.inId := rfl
@[simp] theorem State.setFrame_inUnit (v : BitVec 12) : (s.setFrame v).inUnit = s.inUnit := rfl
@[simp] theorem State.setFrame_outCmd (v : BitVec 12) : (s.setFrame v).outCmd = s.outCmd := rfl
@[simp] theorem State.setFrame_frame (v : BitVec 12) : (s.setFrame v).frame = v := rfl
@[simp] theorem State.setFrame_pt (v : BitVec 12) : (s.setFrame v).pt = s.pt := rfl
@[simp] theorem State.setFrame_pending (v : BitVec 12) : (s.setFrame v).pending = s.pending := rfl
@[simp] theorem State.setFrame_recorded (v : BitVec 12) :
    (s.setFrame v).recorded = s.recorded := rfl

@[simp] theorem State.setPt_status (p : Vector Word 50) : (s.setPt p).status = s.status := rfl
@[simp] theorem State.setPt_cfg (p : Vector Word 50) : (s.setPt p).cfg = s.cfg := rfl
@[simp] theorem State.setPt_inFlags (p : Vector Word 50) : (s.setPt p).inFlags = s.inFlags := rfl
@[simp] theorem State.setPt_inId (p : Vector Word 50) : (s.setPt p).inId = s.inId := rfl
@[simp] theorem State.setPt_inUnit (p : Vector Word 50) : (s.setPt p).inUnit = s.inUnit := rfl
@[simp] theorem State.setPt_outCmd (p : Vector Word 50) : (s.setPt p).outCmd = s.outCmd := rfl
@[simp] theorem State.setPt_frame (p : Vector Word 50) : (s.setPt p).frame = s.frame := rfl
@[simp] theorem State.setPt_pt (p : Vector Word 50) : (s.setPt p).pt = p := rfl
@[simp] theorem State.setPt_pending (p : Vector Word 50) : (s.setPt p).pending = s.pending := rfl
@[simp] theorem State.setPt_recorded (p : Vector Word 50) : (s.setPt p).recorded = s.recorded := rfl

@[simp] theorem State.setPending_status (es : List HostEvent) :
    (s.setPending es).status = s.status := rfl
@[simp] theorem State.setPending_cfg (es : List HostEvent) : (s.setPending es).cfg = s.cfg := rfl
@[simp] theorem State.setPending_inFlags (es : List HostEvent) :
    (s.setPending es).inFlags = s.inFlags := rfl
@[simp] theorem State.setPending_inId (es : List HostEvent) : (s.setPending es).inId = s.inId := rfl
@[simp] theorem State.setPending_inUnit (es : List HostEvent) :
    (s.setPending es).inUnit = s.inUnit := rfl
@[simp] theorem State.setPending_outCmd (es : List HostEvent) :
    (s.setPending es).outCmd = s.outCmd := rfl
@[simp] theorem State.setPending_frame (es : List HostEvent) :
    (s.setPending es).frame = s.frame := rfl
@[simp] theorem State.setPending_pt (es : List HostEvent) : (s.setPending es).pt = s.pt := rfl
@[simp] theorem State.setPending_pending (es : List HostEvent) :
    (s.setPending es).pending = es := rfl
@[simp] theorem State.setPending_recorded (es : List HostEvent) :
    (s.setPending es).recorded = s.recorded := rfl

@[simp] theorem State.record_status (w : Word) : (s.record w).status = s.status := rfl
@[simp] theorem State.record_cfg (w : Word) : (s.record w).cfg = s.cfg := rfl
@[simp] theorem State.record_inFlags (w : Word) : (s.record w).inFlags = s.inFlags := rfl
@[simp] theorem State.record_inId (w : Word) : (s.record w).inId = s.inId := rfl
@[simp] theorem State.record_inUnit (w : Word) : (s.record w).inUnit = s.inUnit := rfl
@[simp] theorem State.record_outCmd (w : Word) : (s.record w).outCmd = s.outCmd := rfl
@[simp] theorem State.record_frame (w : Word) : (s.record w).frame = s.frame := rfl
@[simp] theorem State.record_pt (w : Word) : (s.record w).pt = s.pt := rfl
@[simp] theorem State.record_pending (w : Word) : (s.record w).pending = s.pending := rfl
@[simp] theorem State.record_recorded (w : Word) : (s.record w).recorded = s.recorded ++ [w] := rfl

end Sys2Proof.Machine
end

