-- ==== Sys2Proof/Laws/Ops.lean ====
section
/-! SUPPORT. One lemma per shared operation of Machine/Ops.lean, Flags.lean and Operands.lean: all it can
do, so that later proofs cite it and need not unfold it. -/

namespace Sys2Proof.Machine

/-! ### STATUS -/

@[simp] theorem okStatus_eq : okStatus = 8#4 := by decide

theorem errStatus_eq (e : ErrCode) : errStatus e = BitVec.ofNat 4 e.code.toNat := by
  cases e <;> decide

@[simp] theorem errStatus_missingField : errStatus .missingField = 1#4 := by decide
@[simp] theorem errStatus_idOutOfRange : errStatus .idOutOfRange = 2#4 := by decide
@[simp] theorem errStatus_unitOutOfRange : errStatus .unitOutOfRange = 3#4 := by decide
@[simp] theorem errStatus_badOp : errStatus .badOp = 4#4 := by decide

/-- `raise Err(c)` writes STATUS and nothing else. -/
theorem raiseErr_eq (e : ErrCode) (s : State) : raiseErr e s = { s with status := errStatus e } := rfl

/-- Success writes STATUS and nothing else. -/
theorem succeed_eq (s : State) : succeed s = { s with status := 8#4 } := by
  rw [← okStatus_eq]; rfl

/-! ### The address map -/

/-- An address is one of the eight registers, a slot, or reserved, by its number. -/
theorem busTarget_eq (a : Addr) :
    busTarget a =
      if a.toNat = 0x00 then .ctrl else if a.toNat = 0x01 then .status
      else if a.toNat = 0x02 then .cfg else if a.toNat = 0x03 then .inFlags
      else if a.toNat = 0x04 then .inId else if a.toNat = 0x05 then .inUnit
      else if a.toNat = 0x06 then .outCmd else if a.toNat = 0x07 then .frame
      else if h : 0x10 ≤ a.toNat ∧ a.toNat ≤ 0x41 then .slot ⟨a.toNat - 0x10, by omega⟩
      else .reserved := by
  revert a; decide +kernel

/-- CTRL is the one address 0x00. -/
@[simp] theorem busTarget_eq_ctrl_iff (a : Addr) : busTarget a = .ctrl ↔ a = 0x00 := by
  revert a; decide +kernel

/-- Slot `k` is named by the address `0x10 + k` and by no other. -/
theorem busTarget_of_slot {a : Addr} {k : Fin 50} (h : a.toNat = 0x10 + k.val) :
    busTarget a = .slot k := by
  revert a k; decide +kernel

/-- The reserved words. -/
theorem busTarget_of_reserved {a : Addr}
    (h : (0x08 ≤ a.toNat ∧ a.toNat ≤ 0x0F) ∨ 0x42 ≤ a.toNat) : busTarget a = .reserved := by
  revert a; decide +kernel

/-- Only reserved words share what they name: any other target has one address. -/
theorem busTarget_inj {a b : Addr} (h : busTarget a = busTarget b) (hr : busTarget a ≠ .reserved) :
    a = b := by
  revert a b; decide +kernel

/-- The address of a target names it. -/
theorem busTarget_addrOfTarget {t : BusTarget} {a : Addr} (h : addrOfTarget t = some a) :
    busTarget a = t := by
  cases t with
  | slot k =>
    simp only [addrOfTarget, Option.some.injEq] at h
    subst h
    revert k; decide +kernel
  | reserved => simp [addrOfTarget] at h
  | _ => simp only [addrOfTarget, Option.some.injEq] at h; subst h; decide

/-! ### Writing one word of the bus -/

/-- A write changes no word but the one at its address. -/
theorem busRead_busStore_of_ne {a b : Addr} (h : b ≠ a) (v : Word) (s : State) :
    busRead b (busStore a v s) = busRead b s := by
  have key : busTarget b = busTarget a → busTarget b = .reserved := by
    intro e; by_contra hr; exact h (busTarget_inj e hr)
  unfold busStore
  cases ha : busTarget a <;> simp only <;> unfold busRead <;> cases hb : busTarget b <;>
    simp_all [State.setSlot]
  case slot.slot k j =>
    have : k.val ≠ j.val := fun e => key (Fin.ext e).symm
    exact Vector.getElem_set_ne _ _ this

/-- A stored write can change CFG, the command inputs and PT only: STATUS, OUT_CMD, FRAME and the host's
own fields stay. -/
theorem busStore_frame (a : Addr) (v : Word) (s : State) :
    busStore a v s =
      { s with
        cfg := (busStore a v s).cfg, inFlags := (busStore a v s).inFlags
        inId := (busStore a v s).inId, inUnit := (busStore a v s).inUnit
        pt := (busStore a v s).pt } := by
  unfold busStore; cases busTarget a <;> rfl

/-- The bus reads the block alone, not the host's own fields. -/
@[simp] theorem busRead_setPending (a : Addr) (s : State) (es : List HostEvent) :
    busRead a (s.setPending es) = busRead a s := rfl

@[simp] theorem busRead_record (a : Addr) (s : State) (w : Word) :
    busRead a (s.record w) = busRead a s := rfl

/-! ### Field values -/

/-- A field's value is the word of its bits, the most significant first. -/
theorem fieldValue_eq (bs : List Bool) : fieldValue bs = (BitVec.ofBoolListBE bs).toNat := by
  induction bs with
  | nil => rfl
  | cons b bs ih =>
    simp only [fieldValue, BitVec.ofBoolListBE, BitVec.toNat_cons, ih]
    exact Nat.shiftLeft_add_eq_or_of_lt (BitVec.isLt _) _

/-- Bit `n − 1 − k` of a field of `n` bits is its `k`-th. -/
theorem fieldValue_testBit (bs : List Bool) (k : Nat) (h : k < bs.length) :
    (fieldValue bs).testBit (bs.length - 1 - k) = bs[k] := by
  have := BitVec.getMsbD_ofBoolListBE (bs := bs) (i := k)
  rw [fieldValue_eq]
  simp only [BitVec.getMsbD, h, decide_true, Bool.true_and] at this
  rw [← List.getD_eq_getElem bs false h, ← this]
  rfl

/-- FRAME[11 − k] is position `k` of the Bit Frame. -/
theorem frameRegister_getLsbD (b : BitFrame) (k : Fin 12) :
    (frameRegister b).getLsbD (11 - k.val) = b[k] := by
  have h := fieldValue_testBit b.toList k.val (by simp)
  simp only [Vector.length_toList] at h
  simp only [frameRegister, BitVec.getLsbD_ofNat, h]
  have : 11 - k.val < 12 := by omega
  simp [this]

/-- A field of `n` bits is below `2^n`. -/
theorem fieldValue_lt (bs : List Bool) : fieldValue bs < 2 ^ bs.length := by
  induction bs with
  | nil => simp [fieldValue]
  | cons b bs ih =>
    have hb : b.toNat ≤ 1 := Bool.toNat_le b
    simp only [fieldValue, List.length_cons, Nat.shiftLeft_eq, Nat.pow_succ]
    have := Nat.mul_le_mul_right (2 ^ bs.length) hb
    omega

end Sys2Proof.Machine
end

