-- ==== Sys2Proof/Laws/Exec.lean ====
section
/-! SUPPORT. What `validate` can answer and what one operation can do. -/

namespace Sys2Proof.Machine

/-- `validate`, with each check as a proposition on the raw inputs. -/
theorem validate_eq (f : BitVec 4) (i u : Word) :
    validate f i u =
      if (f.getLsbD 2 = false ∧ f.getLsbD 3 = false) ∨ f.getLsbD 0 = false ∨ f.getLsbD 1 = false then
        .error .missingField
      else if i.toInt < 0 ∨ 63 < i.toInt then .error .idOutOfRange
      else if u.toInt < 0 ∨ 15 < u.toInt then .error .unitOutOfRange
      else .ok { id := i.extractLsb' 0 6, unit := u.extractLsb' 0 4, on := !f.getLsbD 3 } := by
  have hi : (¬ (0 ≤ i.toInt ∧ i.toInt ≤ 63)) = (i.toInt < 0 ∨ 63 < i.toInt) := by
    apply propext; omega
  have hu : (¬ (0 ≤ u.toInt ∧ u.toInt ≤ 15)) = (u.toInt < 0 ∨ 15 < u.toInt) := by
    apply propext; omega
  unfold validate onFlag offFlag idPresent unitPresent Config.idMax Config.unitMax
  simp only [hi, hu]
  cases f.getLsbD 0 <;> cases f.getLsbD 1 <;> cases f.getLsbD 2 <;> cases f.getLsbD 3 <;> rfl

/-- `validate` answers a command exactly when every field is supplied and in range (R101 to R104). -/
theorem validate_eq_ok_iff (f : BitVec 4) (i u : Word) (c : Command) :
    validate f i u = .ok c ↔
      ((f.getLsbD 2 = true ∨ f.getLsbD 3 = true) ∧ f.getLsbD 0 = true ∧ f.getLsbD 1 = true) ∧
      (0 ≤ i.toInt ∧ i.toInt ≤ 63) ∧ (0 ≤ u.toInt ∧ u.toInt ≤ 15) ∧
      c = { id := i.extractLsb' 0 6, unit := u.extractLsb' 0 4, on := !f.getLsbD 3 } := by
  rw [validate_eq]
  split_ifs with hm hi hu
  · refine iff_of_false (by simp) ?_
    rintro ⟨⟨h, h0, h1⟩, -⟩
    rcases hm with ⟨h2, h3⟩ | h2 | h2
    · rw [h2, h3] at h; simp at h
    · rw [h0] at h2; cases h2
    · rw [h1] at h2; cases h2
  · refine iff_of_false (by simp) ?_
    omega
  · refine iff_of_false (by simp) ?_
    omega
  · simp only [not_or, not_and, Bool.not_eq_false] at hm
    have hon : f.getLsbD 2 = true ∨ f.getLsbD 3 = true := by
      cases h : f.getLsbD 2
      · exact .inr (hm.1 h)
      · exact .inl rfl
    simp only [Verdict.ok.injEq, hon, hm.2.1, hm.2.2, and_self, true_and]
    constructor
    · intro h; exact ⟨by omega, by omega, h.symm⟩
    · rintro ⟨-, -, h⟩; exact h.symm

/-- ENCODE, by what `validate` answers. -/
theorem execEncode_eq (s : State) :
    execEncode s = match s.verdict with
      | .error e => .next { s with status := errStatus e }
      | .ok c => .next { s with
          status := 8#4, outCmd := c, frame := frameRegister (frameBits c s.mode)
          pt := train s.timingUnit (frameBits c s.mode) } := by
  unfold execEncode
  cases s.verdict <;>
    simp only [raiseErr_eq, succeed_eq, State.setPt, State.setOutCmd, State.setFrame]

/-- VALIDATE, by what `validate` answers. -/
theorem execValidate_eq (s : State) :
    execValidate s = match s.verdict with
      | .error e => .next { s with status := errStatus e }
      | .ok c => .next { s with status := 8#4, outCmd := c } := by
  unfold execValidate
  cases s.verdict <;> simp only [raiseErr_eq, succeed_eq, State.setOutCmd]

/-- DECODE, which cannot fail. -/
theorem execDecode_eq (s : State) :
    execDecode s = .next { s with
      status := 8#4, outCmd := commandOfFrame (trainBits s.timingUnit s.pt)
      frame := frameRegister (trainBits s.timingUnit s.pt) } := by
  simp only [execDecode, succeed_eq, State.setOutCmd, State.setFrame]

/-- One operation leaves one of these states: the same one (NOP), an error in STATUS alone, or a success
with its results. -/
theorem exec_cases {i : Instr} {s t : State} (h : exec i s = .next t) :
    (i = .nop ∧ t = s) ∨
    (∃ e, i ≠ .nop ∧ t = { s with status := errStatus e }) ∨
    (i = .validate ∧ ∃ c, s.verdict = .ok c ∧ t = { s with status := 8#4, outCmd := c }) ∨
    (i = .encode ∧ ∃ c, s.verdict = .ok c ∧ t = { s with
      status := 8#4, outCmd := c, frame := frameRegister (frameBits c s.mode)
      pt := train s.timingUnit (frameBits c s.mode) }) ∨
    (i = .decode ∧ t = { s with
      status := 8#4, outCmd := commandOfFrame (trainBits s.timingUnit s.pt)
      frame := frameRegister (trainBits s.timingUnit s.pt) }) := by
  cases i with
  | nop => exact .inl ⟨rfl, by simpa [exec, execNop] using h.symm⟩
  | encode =>
    rw [exec, execEncode_eq] at h
    cases hv : s.verdict with
    | error e => rw [hv] at h; cases h; exact .inr (.inl ⟨e, by simp, rfl⟩)
    | ok c => rw [hv] at h; cases h; exact .inr (.inr (.inr (.inl ⟨rfl, c, rfl, rfl⟩)))
  | decode =>
    rw [exec, execDecode_eq] at h
    cases h; exact .inr (.inr (.inr (.inr ⟨rfl, rfl⟩)))
  | validate =>
    rw [exec, execValidate_eq] at h
    cases hv : s.verdict with
    | error e => rw [hv] at h; cases h; exact .inr (.inl ⟨e, by simp, rfl⟩)
    | ok c => rw [hv] at h; cases h; exact .inr (.inr (.inl ⟨rfl, c, rfl, rfl⟩))
  | badOp w => cases h; exact .inr (.inl ⟨.badOp, by simp, rfl⟩)

end Sys2Proof.Machine
end

