-- ==== Sys2Proof/Laws/Codec.lean ====
section
/-! SUPPORT. The slots of a Pulse Train, the patterns' values, and the positions of a Bit Frame. -/

namespace Sys2Proof.Machine

/-! ### Patterns -/

@[simp] theorem pattern_zero (u : Nat) (x : Bool) : (pattern u x)[0] = u := by cases x <;> rfl

@[simp] theorem pattern_one (u : Nat) (x : Bool) : (pattern u x)[1] = longPulse u := by
  cases x <;> rfl

@[simp] theorem pattern_two (u : Nat) (x : Bool) :
    (pattern u x)[2] = if x then u else longPulse u := by cases x <;> rfl

@[simp] theorem pattern_three (u : Nat) (x : Bool) :
    (pattern u x)[3] = if x then longPulse u else u := by cases x <;> rfl

/-! ### The train -/

/-- Slot `4g + j` of a train is entry `j` of its group's pattern. -/
theorem train_group (u : Nat) (b : BitFrame) (g : Fin 12) (j : Fin 4) :
    (train u b)[groupSlot g j] = slotWord (pattern u b[g])[j] := by
  have hd : (groupSlot g j).val / 4 = g.val := by simp only [groupSlot]; omega
  have hm : (groupSlot g j).val % 4 = j.val := by simp only [groupSlot]; omega
  have hg : g.val < 12 := g.isLt
  simp only [train, Fin.getElem_fin, Vector.getElem_ofFn, slotValue, hd, hm, hg, dite_true]

theorem train_footer_unit (u : Nat) (b : BitFrame) : (train u b)[48] = slotWord u := by
  simp [train, slotValue]

theorem train_footer_end (u : Nat) (b : BitFrame) : (train u b)[49] = slotWord (footerPulse u) := by
  simp [train, slotValue]

/-- Every slot is one of a group, or one of the footer's two. -/
theorem slot_cases (k : Fin 50) : (∃ g j, k = groupSlot g j) ∨ k = 48 ∨ k = 49 := by
  by_cases h : k.val < 48
  · exact .inl ⟨⟨k.val / 4, by omega⟩, ⟨k.val % 4, by omega⟩, by
      apply Fin.ext; simp only [groupSlot]; omega⟩
  · right
    have := k.isLt
    rcases (by omega : k.val = 48 ∨ k.val = 49) with h | h
    · exact .inl (Fin.ext h)
    · exact .inr (Fin.ext h)

/-! ### The timing unit -/

/-- The timing unit in force, by CFG[0]. -/
theorem timingUnit_eq (s : State) : s.timingUnit = if s.cfg.getLsbD 0 then 258 else 264 := by
  unfold State.timingUnit State.unitSel
  cases s.cfg.getLsbD 0 <;> rfl

/-- A timing value below `2^32` is what its slot holds. -/
theorem slotWord_toNat {n : Nat} (h : n < 2 ^ 32) : (slotWord n).toNat = n := by
  simp only [slotWord, BitVec.toNat_ofNat]; exact Nat.mod_eq_of_lt h

/-! ### Bit Frames -/

/-- The positions of the frame ENCODE sends (R141 to R143). -/
theorem frameBits_get (c : Command) (m : EncMode) (k : Fin 12) :
    (frameBits c m)[k] =
      if m = .source ∧ (k = 0 ∨ k = 11) then true
      else if k.val < 6 then c.id.getLsbD (5 - k.val)
      else if k.val < 10 then c.unit.getLsbD (3 - (k.val - 6))
      else if k.val = 10 then false
      else c.on := by
  cases m <;> fin_cases k <;> simp [frameBits, layoutBits]

/-- Position `g` of the frame DECODE reads. -/
theorem trainBits_get (u : Nat) (pt : Vector Word 50) (g : Fin 12) :
    (trainBits u pt)[g] = bitOf u pt g := by
  simp [trainBits]

/-- A group's bit is whether its fourth slot holds `M·u`. -/
theorem bitOf_eq (u : Nat) (pt : Vector Word 50) (g : Fin 12) :
    bitOf u pt g = decide (pt[groupSlot g 3] = slotWord (longPulse u)) := by
  unfold bitOf classify
  split <;> simp_all

end Sys2Proof.Machine
end

