-- ==== Sys2Proof/Laws/PerInstr.lean ====
section
/-! SUPPORT. The family CtrlWordShape: a well-formed operation is encoded by one of the four words of
30_encoding.md R80 exactly when it is not a BAD_OP. -/

namespace Sys2Proof.Laws.CtrlWordShape

/-- The encoded word is at most 3 unless the operation is a BAD_OP (R80, R83). -/
def Statement (i : Instr) : Prop :=
  i.wf = true → ((encodeCtrl i).toNat ≤ 3 ↔ ∀ w, i ≠ .badOp w)

theorem nop : Statement .nop := by simp [Statement, encodeCtrl]

theorem encode : Statement .encode := by simp [Statement, encodeCtrl]

theorem decode : Statement .decode := by simp [Statement, encodeCtrl]

theorem validate : Statement .validate := by simp [Statement, encodeCtrl]

theorem badOp (w : Word) : Statement (.badOp w) := by
  intro h
  simp only [Instr.wf, isReservedWord, Bool.not_eq_true', Bool.or_eq_false_iff,
    beq_eq_false_iff_ne, ne_eq] at h
  obtain ⟨⟨⟨h0, h1⟩, h2⟩, h3⟩ := h
  simp only [encodeCtrl]
  constructor
  · intro hw; bv_omega
  · intro hw; exact absurd rfl (hw w)

end Sys2Proof.Laws.CtrlWordShape
end

