-- ==== Sys2Proof/Laws/Run.lean ====
section
/-! SUPPORT. One turn of the host and runs of several: how a step reduces to the event at the head of the
host's list. -/

namespace Sys2Proof.Machine

/-- A write to another word than CTRL stores and always has a next state. -/
theorem transact_write {a : Addr} (h : a ≠ 0x00) (v : Word) (s : State) :
    transact (.write a v) s = .next (busStore a v s) := by
  have hn : ¬ busTarget a = .ctrl := by rw [busTarget_eq_ctrl_iff]; exact h
  simp only [transact, if_neg hn]

/-- A write to CTRL runs the operation its value selects. -/
theorem transact_ctrl (v : Word) (s : State) :
    transact (.write 0x00 v) s = exec (decodeCtrl v) s := by
  have h : busTarget 0x00 = .ctrl := by decide
  simp only [transact, h, if_true]

/-- With a transaction at the head, the step is that transaction. -/
theorem step_of_bus {s : State} {t : Transaction} {rest : List HostEvent}
    (h : s.pending = .bus t :: rest) : step s = transact t (s.setPending rest) := by
  simp only [step, hostTurn, h, hostEvent]

/-- With the reset input at the head, the step is the reset event. -/
theorem step_of_reset {s : State} {rest : List HostEvent} (h : s.pending = .reset :: rest) :
    step s = .next (resetBlock (s.setPending rest)) := by
  simp only [step, hostTurn, h, hostEvent]

/-- The reset event leaves the host's own fields and sets the rest to the reset state. -/
theorem resetBlock_eq (s : State) :
    resetBlock s = { State.reset with pending := s.pending, recorded := s.recorded } := rfl

/-- A run of no step stays where it is. -/
theorem runsTo_zero (s t : State) : RunsTo 0 s t ↔ s = t := by
  simp only [RunsTo, Host.Core.run]
  exact ⟨fun h => by cases h; rfl, fun h => by rw [h]⟩

/-- A run is its first step and the rest. -/
theorem runsTo_succ_of_step {k : Nat} {s t : State} (h : step s = .next t) (u : State) :
    RunsTo (k + 1) s u ↔ RunsTo k t u := by
  have h' : Host.Core.step Sys2Proof.core s = .next t := h
  simp only [RunsTo, Host.Core.run, h']

end Sys2Proof.Machine
end

