-- ==== Sys2Proof/Machine/ScriptText.lean ====
section
/-! DEFINITION. The text of a host script, read line by line (30_encoding.md R85 to R91). What R85
leaves open of it (which spaces may stand where, the case of letters, the forms of a number) is log 12. -/

namespace Sys2Proof.Machine

/-- The line without its comment: `;` starts one, to the end of the line (R85). -/
def stripComment (cs : List Char) : List Char := cs.takeWhile (· ≠ ';')

/-- Spaces separate tokens. -/
def isBlank (c : Char) : Bool := c == ' ' || c == '\t' || c == '\r'

/-- The tokens of a line, with `word` the one being read: words between spaces, and commas. -/
def tokensFrom (word : List Char) : List Char → List (List Char)
  | [] => if word.isEmpty then [] else [word]
  | c :: cs =>
    let done := if word.isEmpty then [] else [word]
    if isBlank c then done ++ tokensFrom [] cs
    else if c == ',' then done ++ [[',']] ++ tokensFrom [] cs
    else tokensFrom (word ++ [c]) cs

/-- The tokens of a line. -/
def tokens (cs : List Char) : List (List Char) := tokensFrom [] cs

/-- The value of one digit in the base. -/
def digitValue (base : Nat) (c : Char) : Option Nat :=
  let n := c.toNat
  let v := if 48 ≤ n ∧ n ≤ 57 then n - 48
    else if 65 ≤ n ∧ n ≤ 70 then n - 55
    else if 97 ≤ n ∧ n ≤ 102 then n - 87
    else 16
  if v < base then some v else none

/-- The number the digits write after those already read. -/
def digitsFrom (base acc : Nat) : List Char → Option Nat
  | [] => some acc
  | c :: cs => (digitValue base c).bind fun d => digitsFrom base (acc * base + d) cs

/-- A number of at least one digit; leading zeros are accepted (DESIGN CHOICE, log 12). -/
def readNat (base : Nat) (cs : List Char) : Option Nat :=
  if cs.isEmpty then none else digitsFrom base 0 cs

/-- A hexadecimal literal: `0x` and 1 to 8 digits (R85). -/
def readHex : List Char → Option Nat
  | '0' :: 'x' :: ds => if ds.length ≤ 8 then readNat 16 ds else none
  | _ => none

/-- A value: a decimal literal, optionally negative, or a hexadecimal literal (R85). No minus sign stands
before a hexadecimal literal and no plus sign before any (DESIGN CHOICE, log 12). -/
def readInt : List Char → Option Int
  | '0' :: 'x' :: ds => (readHex ('0' :: 'x' :: ds)).map Int.ofNat
  | '-' :: ds => (readNat 10 ds).map fun n => -(n : Int)
  | ds => (readNat 10 ds).map Int.ofNat

/-- What follows `key` in a word that begins with it. -/
def after : List Char → List Char → Option (List Char)
  | [], cs => some cs
  | _ :: _, [] => none
  | k :: ks, c :: cs => if k == c then after ks cs else none

/-- The slot of `k]`, with 0 ≤ k ≤ 49 (R85). DESIGN CHOICE (log 12): R85 gives no number base for `k`, and
the model reads it in decimal digits only, so `PT[0x0F]` is a script error. -/
def readSlot (cs : List Char) : Option BusTarget :=
  if cs.getLast? == some ']' then
    (readNat 10 cs.dropLast).bind fun k => if h : k < 50 then some (.slot ⟨k, h⟩) else none
  else none

/-- A target: a register name, `PT[k]`, or a word address (R85). DESIGN CHOICE (log 12): the address is a
hexadecimal literal of 1 to 8 digits, so `RD 15` is a script error and `RD 0x1` is not. -/
def readTarget (w : List Char) : Option ScriptTarget :=
  if w = "CTRL".toList then some (.named .ctrl)
  else if w = "STATUS".toList then some (.named .status)
  else if w = "CFG".toList then some (.named .cfg)
  else if w = "IN_FLAGS".toList then some (.named .inFlags)
  else if w = "IN_ID".toList then some (.named .inId)
  else if w = "IN_UNIT".toList then some (.named .inUnit)
  else if w = "OUT_CMD".toList then some (.named .outCmd)
  else if w = "FRAME".toList then some (.named .frame)
  else match after "PT[".toList w with
    | some rest => (readSlot rest).map .named
    | none => (readHex w).map .address

/-- A field of `SETCMD`: `-` is absent (R88). DESIGN CHOICE (log 12): any value literal of R85 may stand
for R88's `n`. -/
def readField (cs : List Char) : Option (Option Int) :=
  if cs = ['-'] then some none else (readInt cs).map some

/-- `SOURCE` or `FRAME` (R87). -/
def readMode (cs : List Char) : Option EncMode :=
  if cs = "SOURCE".toList then some .source
  else if cs = "FRAME".toList then some .frame
  else none

/-- `on`, `off`, `both` or `none` (R88). -/
def readStateWord (cs : List Char) : Option StateWord :=
  if cs = "on".toList then some .on
  else if cs = "off".toList then some .off
  else if cs = "both".toList then some .both
  else if cs = "none".toList then some .none
  else none

/-- The values of a `LOADPT`, with a comma between two (R89). -/
def readValues : List (List Char) → Option (List Int)
  | [] => some []
  | [v] => (readInt v).map fun n => [n]
  | v :: c :: rest =>
    if c = [','] ∧ ¬ rest.isEmpty then
      (readInt v).bind fun n => (readValues rest).map fun ns => n :: ns
    else none

/-- The flags of a `SEND` (R90). DESIGN CHOICE (log 12): any value literal of R85 may stand for R90's `N`. -/
def readFlags : List (List Char) → Option (List CliFlag)
  | [] => some []
  | w :: rest =>
    let more := readFlags rest
    if w = "-t".toList ∨ w = "--on".toList then more.map (CliFlag.on :: ·)
    else if w = "-f".toList ∨ w = "--off".toList then more.map (CliFlag.off :: ·)
    else if w = "-u".toList then readShort CliFlag.unit rest
    else if w = "-i".toList then readShort CliFlag.id rest
    else match after "--unit=".toList w, after "--id=".toList w with
      | some n, _ => (readInt n).bind fun v => more.map (CliFlag.unit v :: ·)
      | none, some n => (readInt n).bind fun v => more.map (CliFlag.id v :: ·)
      | none, none => none
where
  /-- A flag whose value is the next word. -/
  readShort (mk : Int → CliFlag) : List (List Char) → Option (List CliFlag)
    | [] => none
    | n :: rest => (readInt n).bind fun v => (readFlags rest).map (mk v :: ·)

/-- The statement of a line's tokens (R85 to R91). DESIGN CHOICE (log 12): R87 writes `unit=<264|258>`, and
the model accepts any value literal of R85 with one of these values, such as `unit=0x108` or `unit=0264`. -/
def readStmt : List (List Char) → Option Stmt
  | [] => none
  | w :: args =>
    if w = "WR".toList then
      match args with
      | [t, c, v] =>
        if c = [','] then (readTarget t).bind fun t => (readInt v).map (Stmt.wr t ·) else none
      | _ => none
    else if w = "RD".toList then
      match args with
      | [t] => (readTarget t).map .rd
      | _ => none
    else if w = "NOP".toList then (if args.isEmpty then some .nop else none)
    else if w = "ENCODE".toList then (if args.isEmpty then some .encode else none)
    else if w = "DECODE".toList then (if args.isEmpty then some .decode else none)
    else if w = "VALIDATE".toList then (if args.isEmpty then some .validate else none)
    else if w = "SETCFG".toList then
      match args with
      | [u, c, m] =>
        if c = [','] then
          ((after "unit=".toList u).bind readInt).bind fun u =>
            ((after "mode=".toList m).bind readMode).map (Stmt.setCfg u ·)
        else none
      | _ => none
    else if w = "SETCMD".toList then
      match args with
      | [i, c, u, d, sw] =>
        if c = [','] ∧ d = [','] then
          ((after "id=".toList i).bind readField).bind fun i =>
            ((after "unit=".toList u).bind readField).bind fun u =>
              (readStateWord sw).map (Stmt.setCmd i u ·)
        else none
      | _ => none
    else if w = "LOADPT".toList then (readValues args).map .loadPt
    else if w = "DUMPPT".toList then (if args.isEmpty then some .dumpPt else none)
    else if w = "SEND".toList then (readFlags args).map .send
    else none

/-- The statements of a script's lines; a blank line, or one that is only a comment, holds none. -/
def readLines : List (List Char) → Option (List Stmt)
  | [] => some []
  | line :: rest =>
    match tokens (stripComment line) with
    | [] => readLines rest
    | ts => (readStmt ts).bind fun st => (readLines rest).map (st :: ·)

/-- The lines of a text, with `line` the one being read. -/
def linesFrom (line : List Char) : List Char → List (List Char)
  | [] => [line]
  | c :: cs => if c == '\n' then line :: linesFrom [] cs else linesFrom (line ++ [c]) cs

/-- The statements of a script's text, one per line (R85). -/
def readScript (text : String) : Option (List Stmt) := readLines (linesFrom [] text.toList)

/-- The transactions of a script's text. -/
def assemble (text : String) : Option (List Transaction) := (readScript text).bind expandScript

end Sys2Proof.Machine
end

