-- ==== Sys2Proof/Tests/Slice0.lean ====
section
/-! SUPPORT. The model's own tests, with expected values from 30_encoding.md and 95_test_vectors.md, and
a witness of the hypotheses of every statement that has some. -/

namespace Sys2Proof.Tests

open Sys2Proof.Machine

/-- The next state of an outcome, if it is one. -/
def nextOf (o : Host.Outcome State Fault Refusal) : Option State :=
  match o with
  | .next s => some s
  | .fault _ => none
  | .refused _ => none

/-- A state after reset with the configuration and the command inputs given. -/
def inputs (cfg : BitVec 2) (flags : BitVec 4) (id unit : Int) : State :=
  { State.reset with
    cfg := cfg, inFlags := flags, inId := BitVec.ofInt 32 id, inUnit := BitVec.ofInt 32 unit }

/-- A state after reset in which the host has these events to do. -/
def hostDoes (es : List HostEvent) : State := { State.reset with pending := es }

/-! ### WellFormed: the ill-formed terms are refused (30_encoding.md R83) -/

theorem test_wf_refuses_unreserved_words :
    (Instr.badOp 0).wf = false ∧ (Instr.badOp 1).wf = false ∧ (Instr.badOp 2).wf = false ∧
    (Instr.badOp 3).wf = false := by decide

theorem test_wf_accepts :
    Instr.nop.wf = true ∧ Instr.encode.wf = true ∧ Instr.decode.wf = true ∧
    Instr.validate.wf = true ∧ (Instr.badOp 4).wf = true ∧ (Instr.badOp 0x11).wf = true := by decide

/-! ### Decode: the words of 30_encoding.md R80, written out -/

theorem test_decode_nop : decodeCtrl 0b00000000000000000000000000000000#32 = .nop := by decide

theorem test_decode_encode : decodeCtrl 0b00000000000000000000000000000001#32 = .encode := by decide

theorem test_decode_decode : decodeCtrl 0b00000000000000000000000000000010#32 = .decode := by decide

theorem test_decode_validate :
    decodeCtrl 0b00000000000000000000000000000011#32 = .validate := by decide

theorem test_decode_badOp :
    decodeCtrl 0b00000000000000000000000000000100#32 = .badOp 0x4 ∧
    decodeCtrl 0b00000000000000000000000000010001#32 = .badOp 0x11 ∧
    decodeCtrl 0b11111111111111111111111111111111#32 = .badOp 0xFFFFFFFF ∧
    decodeCtrl 0b10000000000000000000000000000000#32 = .badOp 0x80000000 := by decide

theorem test_decodeTableWord :
    decodeTableWord 32 2 = some .decode ∧ decodeTableWord 32 0xFFFFFFFF = some (.badOp 0xFFFFFFFF) ∧
    decodeTableWord 8 0x101 = some .encode ∧ decodeTableWord 40 1 = none := by decide

/-! ### Operations, one step each (95_test_vectors.md) -/

/-- §2.5: STATUS preset to 2 stays 2. -/
theorem test_nop_keeps_status :
    (nextOf (step ({ State.reset with status := 2 }.withFetchWord 32 0))).map (·.status) = some 2 := by
  decide +kernel

/-- §2.5: 0x11 is BAD_OP, not ENCODE. -/
theorem test_badOp_status :
    (nextOf (step ((inputs 2 7 5 2).withFetchWord 32 0x11))).map (fun s => (s.status, s.frame)) =
      some (4, 0) := by decide +kernel

/-- S1 in FRAME mode: FRAME, OUT_CMD, and slot 15 of group 3. -/
theorem test_encode_frame_mode :
    (nextOf (exec .encode (inputs 2 7 5 2))).map
      (fun s => (s.status, s.frame, busRead 0x06 s, s.pt[15], s.pt[48])) =
      some (8, 0x149, 0x00010205, 792, 264) := by decide +kernel

/-- §2.3: u = 258, SOURCE mode, both flags, id 0, unit 0. -/
theorem test_encode_source_mode :
    (nextOf (exec .encode (inputs 1 0xF 0 0))).map
      (fun s => (s.frame, busRead 0x06 s, s.pt[2], s.pt[6], s.pt[47])) =
      some (0x801, 0, 258, 774, 774) := by decide +kernel

/-- §2.4: near-misses of 792 read as 0. -/
theorem test_decode_near_misses :
    (nextOf (exec .decode { State.reset with
      cfg := 2
      pt := (((((((((State.reset.pt.set 3 791).set 7 793).set 11 1584).set 15 774).set 19 264).set 23
        0xFFFFFFFF).set 27 792).set 31 792).set 47 792) })).map
      (fun s => (s.status, busRead 0x06 s, s.frame)) = some (8, 0x00010C00, 0x031) := by
  decide +kernel

/-- §2.4: only slot 4g + 3 matters. -/
theorem test_decode_fourth_slots :
    (nextOf (exec .decode { State.reset with
      pt := (((((State.reset.pt.set 3 792).set 11 792).set 19 792).set 27 792).set 35 792).set 47
        792 })).map (fun s => (busRead 0x06 s, s.frame)) = some (0x00010A2A, 0xAA9) := by
  decide +kernel

/-- §2.2: on and off both set, off wins. -/
theorem test_validate_off_wins :
    (nextOf (exec .validate (inputs 0 0xF 3 3))).map (fun s => (s.status, busRead 0x06 s)) =
      some (8, 0x00000303) := by decide +kernel

/-- §2.2: the comparison is signed. -/
theorem test_validate_negative_id :
    (nextOf (exec .validate (inputs 0 7 (-1) 3))).map (fun s => (s.status, busRead 0x06 s)) =
      some (2, 0) := by decide +kernel

/-! ### Bus transactions (95_test_vectors.md §2.6) -/

theorem test_write_drops_reserved_bits :
    (nextOf (step (hostDoes [.bus (.write 0x03 0xFFFFFFFF)]))).map (busRead 0x03) = some 0xF := by
  decide +kernel

theorem test_write_past_last_slot_ignored :
    (nextOf (step (hostDoes [.bus (.write 0x42 5)]))).map (fun s => (busRead 0x42 s, s.pt[49])) =
      some (0, 0) := by decide +kernel

theorem test_read_is_recorded :
    (nextOf (step { State.reset with
      outCmd := ⟨5, 2, true⟩, pending := [.bus (.read 0x06)] })).map (·.recorded) =
      some [0x00010205] := by decide +kernel

/-! ### Host scripts (30_encoding.md R85 to R91) -/

/-- The transactions of a script's text in R85's notation. -/
def encodings (text : String) : Option (List String) :=
  (assemble text).map fun ts => ts.map fun t => String.ofList t.encoding

/-- Program P1, lines 1 to 6. -/
theorem test_script_p1 :
    encodings "SETCFG unit=264, mode=FRAME\nSEND -t -u 2 -i 5 ; as R91\nRD STATUS\nRD PT[15]\nRD PT[49]"
      = some ["W 02 00000002", "W 04 00000005", "W 05 00000002", "W 03 00000007", "W 00 00000001",
        "R 01", "R 1F", "R 41"] := by decide +kernel

/-- Program P2, lines 4 and 8, and P5, line 5. -/
theorem test_script_setcmd :
    encodings "SETCMD id=-, unit=3, on\n\nSETCMD id=63, unit=-1, both\nWR 0x08, 0x1234" =
      some ["W 04 00000000", "W 05 00000003", "W 03 00000006", "W 04 0000003F", "W 05 FFFFFFFF",
        "W 03 0000000F", "W 08 00001234"] := by decide +kernel

/-- R85, R87, R89: script errors. -/
theorem test_script_errors :
    assemble "WR IN_ID, 4294967296" = none ∧ assemble "RD PT[50]" = none ∧
    assemble "SETCFG unit=300, mode=FRAME" = none ∧ assemble "LOADPT 1, 2" = none := by
  decide +kernel

/-! ### Witnesses: the hypotheses of each statement can be met -/

theorem witness_CtrlWordSelectsOperation :
    (0x10#32).toNat / 16 ≠ 0 ∧
    ((0x0#32).toNat / 16 = 0 ∧ (0x0#32).toNat % 16 = 0) ∧
    ((0x1#32).toNat / 16 = 0 ∧ (0x1#32).toNat % 16 = 1) ∧
    ((0x2#32).toNat / 16 = 0 ∧ (0x2#32).toNat % 16 = 2) ∧
    ((0x3#32).toNat / 16 = 0 ∧ (0x3#32).toNat % 16 = 3) ∧
    ((0x4#32).toNat / 16 = 0 ∧ 4 ≤ (0x4#32).toNat % 16) ∧
    ((0xF#32).toNat / 16 = 0 ∧ 4 ≤ (0xF#32).toNat % 16) := by decide

theorem witness_DecodeAndEncodeAgree : (Instr.badOp 4).wf = true ∧ Instr.encode.wf = true := by
  decide

/-- Also of ReservedValueWritesOnlyStatus, at the least reserved OP and the least reserved RSV. -/
theorem witness_StepRunsDecodedOperation :
    (hostDoes [.bus (.write 0x00 4)]).pending = .bus (.write 0x00 4) :: [] ∧
    4 ≤ (4#32).toNat % 16 ∧ (16#32).toNat / 16 ≠ 0 := by decide

theorem witness_FetchWordRunsItsOperation : 0xFFFFFFFF < 2 ^ 32 := by decide

theorem witness_IdleStepKeepsState : State.reset.pending = [] := rfl

/-- Every clause of ReadReturnsAddressedWord at the ends of its range. -/
theorem witness_ReadReturnsAddressedWord :
    (hostDoes [.bus (.read 0x01)]).pending = .bus (.read 0x01) :: [] ∧
    (0x00#7).toNat = 0x00 ∧ (0x01#7).toNat = 0x01 ∧ (0x02#7).toNat = 0x02 ∧ (0x03#7).toNat = 0x03 ∧
    (0x04#7).toNat = 0x04 ∧ (0x05#7).toNat = 0x05 ∧ (0x06#7).toNat = 0x06 ∧ (0x07#7).toNat = 0x07 ∧
    (0x10#7).toNat = 0x10 + (0 : Fin 50).val ∧ (0x41#7).toNat = 0x10 + (49 : Fin 50).val ∧
    (0x08 ≤ (0x08#7).toNat ∧ (0x08#7).toNat ≤ 0x0F) ∧
    (0x08 ≤ (0x0F#7).toNat ∧ (0x0F#7).toNat ≤ 0x0F) ∧ 0x42 ≤ (0x42#7).toNat ∧
    0x42 ≤ (0x7F#7).toNat := by decide

/-- The address clauses are those of the read. -/
theorem witness_WriteChangesAddressedWord :
    (hostDoes [.bus (.write 0x41 7)]).pending = .bus (.write 0x41 7) :: [] ∧
    (0x41#7).toNat = 0x10 + (49 : Fin 50).val := by decide

/-- Also of RepeatedTransactionChangesNothingMore. -/
theorem witness_WrittenWordReadsBack :
    (0x02#7 ≠ 0x00 ∧ (0x02#7).toNat = 0x02) ∧ (0x03#7 ≠ 0x00 ∧ (0x03#7).toNat = 0x03) ∧
    (0x04#7 ≠ 0x00 ∧ (0x04#7).toNat = 0x04) ∧ (0x05#7 ≠ 0x00 ∧ (0x05#7).toNat = 0x05) ∧
    (0x10#7 ≠ 0x00 ∧ 0x10 ≤ (0x10#7).toNat ∧ (0x10#7).toNat ≤ 0x41) ∧
    (0x41#7 ≠ 0x00 ∧ 0x10 ≤ (0x41#7).toNat ∧ (0x41#7).toNat ≤ 0x41) ∧
    (0x01#7 ≠ 0x00 ∧ (0x01#7).toNat = 0x01) ∧
    (0x06#7 ≠ 0x00 ∧ 0x06 ≤ (0x06#7).toNat ∧ (0x06#7).toNat ≤ 0x0F) ∧
    (0x0F#7 ≠ 0x00 ∧ 0x06 ≤ (0x0F#7).toNat ∧ (0x0F#7).toNat ≤ 0x0F) ∧
    (0x42#7 ≠ 0x00 ∧ 0x42 ≤ (0x42#7).toNat) ∧ (0x7F#7 ≠ 0x00 ∧ 0x42 ≤ (0x7F#7).toNat) ∧
    0x05#7 ≠ 0x04#7 := by decide

theorem witness_ResetSetsEveryElement : (hostDoes [.reset]).pending = .reset :: [] := rfl

/-- Also of the statements about an accepted command in FRAME mode, at both ends of the ranges. -/
theorem witness_Accepted :
    Accepted (inputs 2 7 5 2) ∧ Accepted (inputs 3 0xF 63 15) ∧ Accepted (inputs 3 0xB 0 0) ∧
    (inputs 2 7 5 2).cfg.getLsbD 1 = true := by decide +kernel

/-- Of the statements about an accepted command in SOURCE mode. -/
theorem witness_Accepted_in_source_mode :
    Accepted (inputs 0 7 5 2) ∧ (inputs 0 7 5 2).cfg.getLsbD 1 = false ∧
    Accepted (inputs 1 7 32 15) ∧ (inputs 1 7 32 15).cfg.getLsbD 1 = false := by decide +kernel

theorem witness_not_Accepted :
    ¬ Accepted State.reset ∧ ¬ Accepted (inputs 0 7 64 0) ∧ ¬ Accepted (inputs 0 7 0 (-1)) := by
  decide +kernel

theorem witness_ValidateAcceptsExactlyTheRanges :
    ((inputs 0 7 64 0).inId = 64#32 ∧ (inputs 0 7 (-1) 0).inId = BitVec.ofInt 32 (-1)) ∧
    ((inputs 0 7 63 16).inId.toNat ≤ 63 ∧ (inputs 0 7 63 16).inUnit = 16#32) ∧
    ((inputs 0 7 0 (-1)).inId.toNat ≤ 63 ∧ (inputs 0 7 0 (-1)).inUnit = BitVec.ofInt 32 (-1)) ∧
    (inputs 0 7 0 0).inFlags.getLsbD 0 = true ∧ (inputs 0 7 0 0).inFlags.getLsbD 1 = true ∧
    (inputs 0 7 0 0).inFlags.getLsbD 2 = true := by decide +kernel

/-- The clauses of EncodeWritesCommandFrameTrain and SourceProcedureWritesSameTrain on u, n and m. -/
theorem witness_encode_clauses :
    264 = (if (inputs 2 7 5 2).cfg.getLsbD 0 then 258 else 264) ∧
    258 = (if (inputs 3 7 5 2).cfg.getLsbD 0 then 258 else 264) ∧
    (3 ≤ 6 ∧ (inputs 2 7 5 2).inId.toNat < 2 ^ 3 ∧ 2 ≤ 4 ∧ (inputs 2 7 5 2).inUnit.toNat < 2 ^ 2) := by
  decide +kernel

theorem witness_FailedEncodeWritesOnlyStatus :
    (nextOf (exec .encode State.reset)).map (fun t => decide (t.err ≠ 0)) = some true := by
  decide +kernel

theorem witness_EncodeDependsOnInputsOnly :
    Accepted (inputs 2 7 5 2) ∧
    { inputs 2 7 5 2 with status := 4, frame := 0xFFF }.cfg = (inputs 2 7 5 2).cfg ∧
    { inputs 2 7 5 2 with status := 4, frame := 0xFFF }.inFlags = (inputs 2 7 5 2).inFlags ∧
    { inputs 2 7 5 2 with status := 4, frame := 0xFFF }.inId = (inputs 2 7 5 2).inId ∧
    { inputs 2 7 5 2 with status := 4, frame := 0xFFF }.inUnit = (inputs 2 7 5 2).inUnit := by
  decide +kernel

/-- A state that holds a train and keeps the timing unit, or has the other one. -/
theorem witness_round_trip_and_mismatch (t : State) :
    { inputs 0 7 5 2 with pt := t.pt }.pt = t.pt ∧
    { inputs 0 7 5 2 with pt := t.pt }.cfg.getLsbD 0 = (inputs 2 7 5 2).cfg.getLsbD 0 ∧
    { inputs 1 7 5 2 with pt := t.pt }.cfg.getLsbD 0 ≠ (inputs 2 7 5 2).cfg.getLsbD 0 :=
  ⟨rfl, by simp [inputs], by simp [inputs]⟩

theorem witness_DecodeWritesCommandAndFrame :
    ∀ g : Fin 12, (fun _ => 0 : Fin 12 → Nat) g =
      if (State.reset.pt[4 * g.val + 3]'(by omega)).toNat =
        3 * (if State.reset.cfg.getLsbD 0 then 258 else 264) then 1 else 0 := by decide +kernel

/-- Two trains that agree on the fourth slots but not elsewhere. -/
theorem witness_DecodeReadsUnitAndFourthSlotsOnly :
    (inputs 2 7 5 2).cfg.getLsbD 0 = State.reset.cfg.getLsbD 0 ∧
    ∀ g : Fin 12, (State.reset.pt.set 2 792)[4 * g.val + 3]'(by omega) =
      State.reset.pt[4 * g.val + 3]'(by omega) := by decide +kernel

/-- Two trains that differ in group 10. -/
theorem witness_ReservedPositionOnlyShowsInFrame :
    ∀ g : Fin 12, g ≠ 10 → (State.reset.pt.set 43 792)[4 * g.val + 3]'(by omega) =
      State.reset.pt[4 * g.val + 3]'(by omega) := by decide +kernel

theorem witness_ClassifierIsExactEquality :
    264 = (if State.reset.cfg.getLsbD 0 then 258 else 264) ∧ (792#32).toNat = 3 * 264 ∧
    (793#32).toNat ≠ 3 * 264 := by decide +kernel

/-- Of OperationSucceedsOrChangesOnlyStatus and OperationsLeaveTheRestAlone. -/
theorem witness_operations :
    Instr.decode ≠ .nop ∧ (exec .nop State.reset = .next State.reset) ∧ Instr.nop ≠ .encode ∧
    Instr.validate ≠ .encode ∧ Instr.validate ≠ .decode ∧ ∃ w, Instr.badOp 4 = .badOp w :=
  ⟨by decide, rfl, by decide, by decide, by decide, 4, rfl⟩

theorem witness_StatusKeepsLastOutcome :
    (∀ rest, (hostDoes [.bus (.write 0x00 0)]).pending ≠ .reset :: rest) ∧
    (∀ v rest, (hostDoes [.bus (.write 0x00 0)]).pending = .bus (.write 0x00 v) :: rest → v = 0) ∧
    Instr.encode ≠ .nop := by
  refine ⟨by simp [hostDoes], ?_, by decide⟩
  intro v rest h
  simp only [hostDoes, List.cons.injEq, HostEvent.bus.injEq, Transaction.write.injEq] at h
  exact h.1.2.symm

theorem witness_StepKeepsStatusLegal :
    StatusLegal State.reset ∧ StatusLegal { State.reset with status := 8 } ∧
    StatusLegal { State.reset with status := 4 } ∧ ¬ StatusLegal { State.reset with status := 9 } := by
  decide

theorem witness_UnwrittenWordKeepsValueOverRuns :
    ∀ e ∈ (hostDoes [.bus (.read 0x04), .bus (.write 0x02 1), .reset]).pending.take 2,
      leavesAlone 0x04 e = true := by decide

theorem witness_BaseStatementsAreOneTransaction :
    (ScriptTarget.named .ctrl).addr = some 0x00 ∧ (ScriptTarget.named .frame).addr = some 0x07 ∧
    (ScriptTarget.named (.slot 0)).addr = some 0x10 ∧ (ScriptTarget.named (.slot 49)).addr = some 0x41 ∧
    (ScriptTarget.address 0x7F).addr = some 0x7F ∧ (ScriptTarget.address 0x80).addr = none ∧
    (-2 ^ 31 : Int) ≤ -2 ^ 31 ∧ (2 ^ 32 - 1 : Int) ≤ 2 ^ 32 - 1 ∧
    (-2 ^ 31 - 1 : Int) < -2 ^ 31 ∧ (2 ^ 32 - 1 : Int) < 2 ^ 32 := by decide

theorem witness_SetCmdLoadsInputs :
    ∀ n : Int, some (-1) = some n ∨ (none : Option Int) = some n → -2 ^ 31 ≤ n ∧ n ≤ 2 ^ 32 - 1 := by
  rintro n (h | h)
  · cases h; decide
  · cases h

theorem witness_SetCfgSelectsUnitAndMode :
    ((0 : Int) ≠ 264 ∧ (0 : Int) ≠ 258) ∧ ((258 : Int) = 264 ∨ (258 : Int) = 258) := by decide

/-- The flags of R91's example. -/
theorem witness_SendIsSetCmdThenEncode :
    (∀ n, .id n ∈ [CliFlag.on, .unit 2, .id 5] → some 5 = some n) ∧
    ((∀ n, .id n ∉ [CliFlag.on, .unit 2, .id 5]) → some (5 : Int) = none) ∧
    (∀ n, .unit n ∈ [CliFlag.on, .unit 2, .id 5] → some 2 = some n) ∧
    ((∀ n, .unit n ∉ [CliFlag.on, .unit 2, .id 5]) → some (2 : Int) = none) ∧
    (.on ∈ [CliFlag.on, .unit 2, .id 5] ↔ StateWord.on = .on ∨ StateWord.on = .both) ∧
    (.off ∈ [CliFlag.on, .unit 2, .id 5] ↔ StateWord.on = .off ∨ StateWord.on = .both) := by
  refine ⟨by simp, by simp, by simp, by simp, by decide, by decide⟩

theorem witness_LoadThenDumpReturnsTheTrain :
    (List.replicate 50 (264 : Int)).length = 50 ∧
    (∀ n ∈ List.replicate 50 (264 : Int), -2 ^ 31 ≤ n ∧ n ≤ 2 ^ 32 - 1) ∧
    ([] : List Int).length ≠ 50 := by decide

end Sys2Proof.Tests
end

section
/-! Proofs of the family 00_scope.md: what a step does. -/

namespace Sys2Proof.Proofs

open Sys2Proof.Machine

/-- Settles O4: the step is the transaction at the head of the host's list, and a write to CTRL is the
operation its value selects. -/
theorem stepRunsDecodedOperation : Obligations.StepRunsDecodedOperation := by
  intro s v rest hnext
  calc step s
      = transact (.write 0x00 v) (s.setPending rest) := step_of_bus hnext
    _ = exec (decodeCtrl v) (s.setPending rest) := transact_ctrl v _
    _ = exec (decodeCtrl v) { s with pending := rest } := rfl

end Sys2Proof.Proofs
end

section
/-! Every operation has a next state (20_memory.md R51); the idle step, and the three kinds of
transaction. -/

namespace Sys2Proof.Machine

/-- No operation faults or is refused. -/
theorem exec_has_next (i : Instr) (s : State) : ∃ t : State, exec i s = .next t := by
  cases i with
  | nop => exact ⟨s, rfl⟩
  | encode =>
    rw [exec, execEncode_eq]
    cases s.verdict with
    | error e => exact ⟨_, rfl⟩
    | ok c => exact ⟨_, rfl⟩
  | decode => exact ⟨_, execDecode_eq s⟩
  | validate =>
    rw [exec, execValidate_eq]
    cases s.verdict with
    | error e => exact ⟨_, rfl⟩
    | ok c => exact ⟨_, rfl⟩
  | badOp w => exact ⟨raiseErr .badOp s, rfl⟩

/-- With nothing for the host to do, the step is the idle step (log 3). -/
theorem step_of_idle {s : State} (h : s.pending = []) : step s = .next s := by
  simp only [step, hostTurn, h]

/-- A transaction is a read, a write that stores, or a write to CTRL that runs an operation. -/
theorem transact_cases (t : Transaction) (s : State) :
    (∃ a, t = .read a ∧ transact t s = .next (s.record (busRead a s))) ∨
    (∃ a v, t = .write a v ∧ a ≠ 0x00 ∧ transact t s = .next (busStore a v s)) ∨
    (∃ v, t = .write 0x00 v ∧ transact t s = exec (decodeCtrl v) s) := by
  cases t with
  | read a => exact .inl ⟨a, rfl, rfl⟩
  | write a v =>
    by_cases ha : a = 0x00
    · subst ha; exact .inr (.inr ⟨v, rfl, transact_ctrl v s⟩)
    · exact .inr (.inl ⟨a, v, rfl, ha, transact_write ha v s⟩)

end Sys2Proof.Machine
end

section
/-! Proofs of the family 10_state.md: STATUS stays a legal outcome. -/

namespace Sys2Proof.Proofs

open Sys2Proof.Machine

/-- Whether STATUS is legal depends on STATUS alone. -/
theorem statusLegal_of_status_eq {s t : State} (h : t.status = s.status) (hs : StatusLegal s) :
    StatusLegal t := by
  simpa only [StatusLegal, State.err, State.outValid, h] using hs

/-- Success leaves a legal STATUS: OUT_VALID with ERR = 0 (R203). -/
theorem statusLegal_of_success {s : State} (h : s.status = 8#4) : StatusLegal s :=
  statusLegal_of_status_eq (s := { State.reset with status := 8#4 }) h (by decide)

/-- Every error code leaves a legal STATUS: ERR is 1 to 4, without OUT_VALID (R200, R203). -/
theorem statusLegal_of_error {s : State} {e : ErrCode} (h : s.status = errStatus e) :
    StatusLegal s :=
  statusLegal_of_status_eq (s := { State.reset with status := errStatus e }) h
    (by cases e <;> decide)

theorem exec_keeps_statusLegal {i : Instr} {s t : State} (h : exec i s = .next t)
    (hs : StatusLegal s) : StatusLegal t := by
  obtain ⟨-, rfl⟩ | ⟨e, -, rfl⟩ | ⟨-, c, -, rfl⟩ | ⟨-, c, -, rfl⟩ | ⟨-, rfl⟩ := exec_cases h
  · exact hs
  · exact statusLegal_of_error rfl
  · exact statusLegal_of_success rfl
  · exact statusLegal_of_success rfl
  · exact statusLegal_of_success rfl

theorem transact_keeps_statusLegal (t : Transaction) {s : State} (hs : StatusLegal s) :
    ∃ u : State, transact t s = .next u ∧ StatusLegal u := by
  obtain ⟨a, -, h⟩ | ⟨a, v, -, -, h⟩ | ⟨v, -, h⟩ := transact_cases t s
  · exact ⟨_, h, statusLegal_of_status_eq (State.record_status s _) hs⟩
  · have hstatus : (busStore a v s).status = s.status := by rw [busStore_frame]
    exact ⟨_, h, statusLegal_of_status_eq hstatus hs⟩
  · obtain ⟨u, hu⟩ := exec_has_next (decodeCtrl v) s
    exact ⟨u, h.trans hu, exec_keeps_statusLegal hu hs⟩

/-- Settles O36, by what the host does next: nothing, a transaction, or the reset event, whose STATUS
is 0. -/
theorem stepKeepsStatusLegal : Obligations.StepKeepsStatusLegal := by
  intro s hs
  cases hp : s.pending with
  | nil => exact ⟨s, step_of_idle hp, hs⟩
  | cons e rest =>
    cases e with
    | bus t =>
      rw [step_of_bus hp]
      exact transact_keeps_statusLegal t
        (statusLegal_of_status_eq (State.setPending_status s rest) hs)
    | reset =>
      exact ⟨_, step_of_reset hp, statusLegal_of_status_eq (s := State.reset) rfl (by decide)⟩

end Sys2Proof.Proofs
end

section
/-! What one step does to the host's list and to a single word of the bus (20_memory.md R51, R62). -/

namespace Sys2Proof.Machine

/-- No operation writes what the host has left to do. -/
theorem exec_keeps_pending {i : Instr} {s t : State} (h : exec i s = .next t) :
    t.pending = s.pending := by
  obtain ⟨-, rfl⟩ | ⟨e, -, rfl⟩ | ⟨-, c, -, rfl⟩ | ⟨-, c, -, rfl⟩ | ⟨-, rfl⟩ := exec_cases h <;>
    rfl

/-- No transaction faults, stalls or is refused (R51), and none writes what the host has left to do. -/
theorem transact_has_next (t : Transaction) (s : State) :
    ∃ u : State, transact t s = .next u ∧ u.pending = s.pending := by
  obtain ⟨a, -, h⟩ | ⟨a, v, -, -, h⟩ | ⟨v, -, h⟩ := transact_cases t s
  · exact ⟨_, h, State.record_pending s _⟩
  · exact ⟨_, h, by rw [busStore_frame]⟩
  · obtain ⟨u, hu⟩ := exec_has_next (decodeCtrl v) s
    exact ⟨u, h.trans hu, exec_keeps_pending hu⟩

/-- Every step has a next state, in which the event at the head of the host's list is gone. -/
theorem step_has_next (s : State) : ∃ t : State, step s = .next t ∧ t.pending = s.pending.tail := by
  cases hp : s.pending with
  | nil => exact ⟨s, step_of_idle hp, hp⟩
  | cons e rest =>
    cases e with
    | bus t => rw [step_of_bus hp]; exact transact_has_next t (s.setPending rest)
    | reset => exact ⟨_, step_of_reset hp, rfl⟩

/-- A write leaves the word at `a` alone when it is neither to CTRL nor to `a`. -/
@[simp] theorem leavesAlone_write (a b : Addr) (v : Word) :
    leavesAlone a (.bus (.write b v)) = true ↔ b ≠ 0x00 ∧ b ≠ a := by
  simp [leavesAlone]

/-- A transaction that leaves the word at `a` alone does not change what a read of `a` returns. -/
theorem busRead_of_transact {a : Addr} {t : Transaction} {s u : State}
    (ha : leavesAlone a (.bus t) = true) (h : transact t s = .next u) :
    busRead a u = busRead a s := by
  obtain ⟨b, -, hread⟩ | ⟨b, v, rfl, -, hwrite⟩ | ⟨v, rfl, -⟩ := transact_cases t s
  · cases hread.symm.trans h
    exact busRead_record a s _
  · cases hwrite.symm.trans h
    exact busRead_busStore_of_ne ((leavesAlone_write a b v).mp ha).2.symm v s
  · exact absurd rfl ((leavesAlone_write a 0x00 v).mp ha).1

/-- A step whose event leaves the word at `a` alone does not change what a read of `a` returns. -/
theorem busRead_of_step {a : Addr} {s t : State} (h : step s = .next t)
    (ha : ∀ e ∈ s.pending.head?, leavesAlone a e = true) : busRead a t = busRead a s := by
  cases hp : s.pending with
  | nil =>
    cases (step_of_idle hp).symm.trans h
    rfl
  | cons e rest =>
    have he : leavesAlone a e = true := ha e (by rw [hp]; rfl)
    cases e with
    | bus t =>
      rw [step_of_bus hp] at h
      exact (busRead_of_transact he h).trans (busRead_setPending a s rest)
    | reset => cases he

end Sys2Proof.Machine
end

section
/-! Proofs of the family 20_memory.md: runs that leave a word alone, and steps that never stop. -/

namespace Sys2Proof.Proofs

open Sys2Proof.Machine

/-- Settles O38, by induction on the number of steps: the first takes the head off the host's list and
keeps the word, and the events of the remaining steps are the tail of those assumed. -/
theorem unwrittenWordKeepsValueOverRuns : Obligations.UnwrittenWordKeepsValueOverRuns := by
  intro a k
  induction k with
  | zero => exact fun s _ => ⟨s, (runsTo_zero s s).mpr rfl, rfl⟩
  | succ k ih =>
    intro s halone
    obtain ⟨t, hstep, htail⟩ := step_has_next s
    have hhead : ∀ e ∈ s.pending.head?, leavesAlone a e = true := by
      intro e he
      have he' : e ∈ (s.pending.take (k + 1)).head? := by simpa [List.head?_take] using he
      exact halone e (List.mem_of_mem_head? he')
    have hrest : ∀ e ∈ t.pending.take k, leavesAlone a e = true := by
      intro e he
      have he' : e ∈ (s.pending.take (k + 1)).tail := by
        rwa [List.tail_take_eq_take_tail, Nat.add_sub_cancel, ← htail]
      exact halone e (List.mem_of_mem_tail he')
    obtain ⟨u, hrun, hword⟩ := ih t hrest
    exact ⟨u, (runsTo_succ_of_step hstep u).mpr hrun, hword.trans (busRead_of_step hstep hhead)⟩

/-- Settles O6. -/
theorem stepNeverStops : Obligations.StepNeverStops := step_has_next

end Sys2Proof.Proofs
end

section
/-! The bus read and the bus write, an equation for each kind of address (20_memory.md R52, R53). -/

namespace Sys2Proof.Machine

/-! ### What a read returns (R52) -/

section
variable (s : State) {a : Addr}

theorem busRead_ctrl (h : a.toNat = 0x00) : busRead a s = 0 := by
  simp [busRead, busTarget_eq, h]

theorem busRead_status (h : a.toNat = 0x01) : busRead a s = s.status.setWidth 32 := by
  simp [busRead, busTarget_eq, h]

theorem busRead_cfg (h : a.toNat = 0x02) : busRead a s = s.cfg.setWidth 32 := by
  simp [busRead, busTarget_eq, h]

theorem busRead_inFlags (h : a.toNat = 0x03) : busRead a s = s.inFlags.setWidth 32 := by
  simp [busRead, busTarget_eq, h]

theorem busRead_inId (h : a.toNat = 0x04) : busRead a s = s.inId := by
  simp [busRead, busTarget_eq, h]

theorem busRead_inUnit (h : a.toNat = 0x05) : busRead a s = s.inUnit := by
  simp [busRead, busTarget_eq, h]

theorem busRead_outCmd (h : a.toNat = 0x06) : busRead a s = commandWord s.outCmd := by
  simp [busRead, busTarget_eq, h]

theorem busRead_frame (h : a.toNat = 0x07) : busRead a s = s.frame.setWidth 32 := by
  simp [busRead, busTarget_eq, h]

theorem busRead_slot {k : Fin 50} (h : a.toNat = 0x10 + k.val) :
    busRead a s = s.pt[k] := by
  simp only [busRead, busTarget_of_slot h]

theorem busRead_reserved (h : (0x08 ≤ a.toNat ∧ a.toNat ≤ 0x0F) ∨ 0x42 ≤ a.toNat) :
    busRead a s = 0 := by
  simp only [busRead, busTarget_of_reserved h]

end

/-- OUT_CMD as a number: its three fields do not overlap (R33). -/
theorem commandWord_toNat (c : Command) :
    (commandWord c).toNat = c.on.toNat * 2 ^ 16 + c.unit.toNat * 2 ^ 8 + c.id.toNat := by
  have hon : c.on.toNat < 2 := Bool.toNat_lt c.on
  have hunit : c.unit.toNat < 2 ^ 4 := c.unit.isLt
  have hid : c.id.toNat < 2 ^ 6 := c.id.isLt
  have hlow : c.unit.toNat <<< 8 ||| c.id.toNat = c.unit.toNat <<< 8 + c.id.toNat :=
    (Nat.shiftLeft_add_eq_or_of_lt (by omega) _).symm
  have hall : c.on.toNat <<< 16 ||| (c.unit.toNat <<< 8 + c.id.toNat) =
      c.on.toNat <<< 16 + (c.unit.toNat <<< 8 + c.id.toNat) :=
    (Nat.shiftLeft_add_eq_or_of_lt (by rw [Nat.shiftLeft_eq]; omega) _).symm
  have hword : (commandWord c).toNat =
      c.on.toNat <<< 16 ||| (c.unit.toNat <<< 8 ||| c.id.toNat) := by
    simp only [commandWord, BitVec.toNat_or, BitVec.toNat_shiftLeft, BitVec.toNat_setWidth,
      BitVec.toNat_ofBool, Nat.or_assoc, Nat.shiftLeft_eq]
    simp (disch := omega) only [Nat.mod_eq_of_lt]
  rw [hword, hlow, hall, Nat.shiftLeft_eq, Nat.shiftLeft_eq, Nat.add_assoc]

/-! ### A word cut to the bits a register has -/

/-- The low `n` bits of a word, as a number. -/
theorem setWidth_eq_ofNat_mod (v : Word) (n : Nat) :
    v.setWidth n = BitVec.ofNat n (v.toNat % 2 ^ n) :=
  BitVec.eq_of_toNat_eq (by simp)

/-- The low `n` bits of a word, as a register of `n` bits reads them back. -/
theorem setWidth_word_eq_and (v : Word) {n : Nat} (hn : n ≤ 32) :
    (v.setWidth n).setWidth 32 = v &&& BitVec.ofNat 32 (2 ^ n - 1) := by
  have hmask : 2 ^ n - 1 < 2 ^ 32 := by
    have := Nat.pow_le_pow_right (n := 2) (by decide) hn
    omega
  apply BitVec.eq_of_toNat_eq
  rw [BitVec.toNat_setWidth_of_le hn, BitVec.toNat_and, BitVec.toNat_setWidth,
    BitVec.toNat_ofNat, Nat.mod_eq_of_lt hmask, Nat.and_two_pow_sub_one_eq_mod]

/-! ### What a write stores (R53) -/

section
variable (v : Word) (s : State) {a : Addr}

theorem busStore_cfg (h : a.toNat = 0x02) : busStore a v s = s.setCfg (v.setWidth 2) := by
  simp [busStore, busTarget_eq, h]

theorem busStore_inFlags (h : a.toNat = 0x03) : busStore a v s = s.setInFlags (v.setWidth 4) := by
  simp [busStore, busTarget_eq, h]

theorem busStore_inId (h : a.toNat = 0x04) : busStore a v s = s.setInId v := by
  simp [busStore, busTarget_eq, h]

theorem busStore_inUnit (h : a.toNat = 0x05) : busStore a v s = s.setInUnit v := by
  simp [busStore, busTarget_eq, h]

theorem busStore_slot {k : Fin 50} (h : a.toNat = 0x10 + k.val) :
    busStore a v s = s.setSlot k v := by
  simp only [busStore, busTarget_of_slot h]

/-- STATUS, OUT_CMD and FRAME are read-only. -/
theorem busStore_readOnly (h : a.toNat = 0x01 ∨ a.toNat = 0x06 ∨ a.toNat = 0x07) :
    busStore a v s = s := by
  obtain h | h | h := h <;> simp [busStore, busTarget_eq, h]

theorem busStore_reserved (h : (0x08 ≤ a.toNat ∧ a.toNat ≤ 0x0F) ∨ 0x42 ≤ a.toNat) :
    busStore a v s = s := by
  simp only [busStore, busTarget_of_reserved h]

end

/-- A write stored twice is stored once. -/
theorem busStore_idem (a : Addr) (v : Word) (s : State) :
    busStore a v (busStore a v s) = busStore a v s := by
  unfold busStore
  cases busTarget a with
  | slot k => simp [State.setSlot, State.setPt]
  | _ => rfl

/-- The step when the host's next event is a write to another word than CTRL. -/
theorem step_of_write {s : State} {a : Addr} {v : Word} {rest : List HostEvent}
    (hnext : s.pending = .bus (.write a v) :: rest) (ha : a.toNat ≠ 0x00) :
    step s = .next (busStore a v (s.setPending rest)) := by
  rw [step_of_bus hnext, transact_write (fun h => ha (by rw [h]; rfl))]

end Sys2Proof.Machine
end

section
/-! Operations repeated: none depends on what it writes (20_memory.md R58, 60_exceptions.md R204). -/

namespace Sys2Proof.Machine

/-- What an operation other than NOP does never depends on the STATUS it finds (R204). -/
theorem exec_setStatus {i : Instr} (hi : i ≠ .nop) (s : State) (v : BitVec 4) :
    exec i (s.setStatus v) = exec i s := by
  cases i with
  | nop => exact absurd rfl hi
  | encode =>
    have hv : (s.setStatus v).verdict = s.verdict := rfl
    rw [exec, exec, execEncode_eq, execEncode_eq, hv]
    rfl
  | decode => rfl
  | validate =>
    have hv : (s.setStatus v).verdict = s.verdict := rfl
    rw [exec, exec, execValidate_eq, execValidate_eq, hv]
    rfl
  | badOp w => rfl

/-- VALIDATE on a valid command. -/
theorem exec_validate_of_ok {s : State} {c : Command} (h : s.verdict = .ok c) :
    exec .validate s = .next { s with status := 8#4, outCmd := c } := by
  rw [exec, execValidate_eq, h]

/-- ENCODE on a valid command. -/
theorem exec_encode_of_ok {s : State} {c : Command} (h : s.verdict = .ok c) :
    exec .encode s = .next { s with
      status := 8#4, outCmd := c, frame := frameRegister (frameBits c s.mode)
      pt := train s.timingUnit (frameBits c s.mode) } := by
  rw [exec, execEncode_eq, h]

/-- An operation run again at once leaves the same state: it writes nothing that it depends on. -/
theorem exec_repeated {i : Instr} {s t : State} (h : exec i s = .next t) : exec i t = .next t := by
  obtain ⟨-, rfl⟩ | ⟨e, hi, rfl⟩ | ⟨rfl, c, hc, rfl⟩ | ⟨rfl, c, hc, rfl⟩ | ⟨rfl, rfl⟩ :=
    exec_cases h
  · exact h
  · exact (exec_setStatus hi s _).trans h
  · exact exec_validate_of_ok hc
  · exact exec_encode_of_ok hc
  · exact execDecode_eq _

end Sys2Proof.Machine
end

section
/-! Proofs of the family 20_memory.md: what a read returns, what a write changes, and transactions
repeated. -/

namespace Sys2Proof.Proofs

open Sys2Proof.Machine

/-- Settles O8: the word is the one `busRead` returns, by its equation for each kind of address. -/
theorem readReturnsAddressedWord : Obligations.ReadReturnsAddressedWord := by
  intro s a rest hnext
  refine ⟨busRead a s, step_of_bus hnext, busRead_ctrl s, ?status, ?cfg, ?inFlags, busRead_inId s,
    busRead_inUnit s, ?outCmd, ?frame, fun k => busRead_slot s, busRead_reserved s⟩
  case status => intro h; rw [busRead_status s h, BitVec.toNat_setWidth_of_le (by decide)]
  case cfg => intro h; rw [busRead_cfg s h, BitVec.toNat_setWidth_of_le (by decide)]
  case inFlags => intro h; rw [busRead_inFlags s h, BitVec.toNat_setWidth_of_le (by decide)]
  case outCmd => intro h; rw [busRead_outCmd s h, commandWord_toNat]
  case frame => intro h; rw [busRead_frame s h, BitVec.toNat_setWidth_of_le (by decide)]

/-- Settles O9: a write to CTRL runs its operation, and any other is `busStore`, by its equation for each
kind of address. -/
theorem writeChangesAddressedWord : Obligations.WriteChangesAddressedWord := by
  intro s a v rest hnext
  have hstore := step_of_write hnext
  refine ⟨?ctrl, ?cfg, ?inFlags, ?inId, ?inUnit, ?slot, ?readOnly, ?reserved⟩
  case ctrl =>
    intro h
    obtain rfl : a = 0x00 := BitVec.eq_of_toNat_eq h
    rw [step_of_bus hnext, transact_ctrl]
    rfl
  case cfg =>
    intro h
    rw [hstore (by omega), busStore_cfg _ _ h, setWidth_eq_ofNat_mod v]
    rfl
  case inFlags =>
    intro h
    rw [hstore (by omega), busStore_inFlags _ _ h, setWidth_eq_ofNat_mod v]
    rfl
  case inId => intro h; rw [hstore (by omega), busStore_inId _ _ h]; rfl
  case inUnit => intro h; rw [hstore (by omega), busStore_inUnit _ _ h]; rfl
  case slot => intro k h; rw [hstore (by omega), busStore_slot _ _ h]; rfl
  case readOnly => intro h; rw [hstore (by omega), busStore_readOnly _ _ h]; rfl
  case reserved => intro h; rw [hstore (by omega), busStore_reserved _ _ h]; rfl

/-- Settles O10: the next state is `busStore`'s, read back by the equations of each kind of address; the
words at other addresses stay by `busRead_busStore_of_ne`. -/
theorem writtenWordReadsBack : Obligations.WrittenWordReadsBack := by
  intro a b v s ha
  refine ⟨busStore a v s, transact_write ha v s, ?cfg, ?inFlags, ?whole, ?ignored,
    fun hb => busRead_busStore_of_ne hb v s⟩
  case cfg =>
    intro h
    rw [busStore_cfg v s h, busRead_cfg _ h, State.setCfg_cfg]
    exact setWidth_word_eq_and v (by decide)
  case inFlags =>
    intro h
    rw [busStore_inFlags v s h, busRead_inFlags _ h, State.setInFlags_inFlags]
    exact setWidth_word_eq_and v (by decide)
  case whole =>
    rintro (h | h | h)
    · rw [busStore_inId v s h, busRead_inId _ h, State.setInId_inId]
    · rw [busStore_inUnit v s h, busRead_inUnit _ h, State.setInUnit_inUnit]
    · have hk : a.toNat = 0x10 + (⟨a.toNat - 0x10, by omega⟩ : Fin 50).val := by
        simp only; omega
      rw [busStore_slot v s hk, busRead_slot _ hk]
      simp [State.setSlot]
  case ignored =>
    intro h
    have hs : busStore a v s = s := by
      by_cases hro : a.toNat = 0x01 ∨ a.toNat = 0x06 ∨ a.toNat = 0x07
      · exact busStore_readOnly v s hro
      · exact busStore_reserved v s (by omega)
    rw [hs]

/-- Settles O11: a read only records its word, a stored write stores the same again, and an operation
run again gives the state it left. -/
theorem repeatedTransactionChangesNothingMore :
    Obligations.RepeatedTransactionChangesNothingMore := by
  refine ⟨?read, ?store, ?ctrl⟩
  case read =>
    intro a s
    have hagain : ((s.record (busRead a s)).record (busRead a s)).recorded =
        s.recorded ++ [busRead a s, busRead a s] := by simp
    exact ⟨s.record (busRead a s), _, busRead a s, rfl, rfl, rfl, rfl, rfl, hagain⟩
  case store =>
    intro a v s ha
    refine ⟨busStore a v s, transact_write ha v s, fun b hb => busRead_busStore_of_ne hb v s, ?_⟩
    rw [transact_write ha, busStore_idem]
  case ctrl =>
    intro v s
    obtain ⟨t, ht⟩ := exec_has_next (decodeCtrl v) s
    exact ⟨t, (transact_ctrl v s).trans ht, (transact_ctrl v t).trans (exec_repeated ht)⟩

end Sys2Proof.Proofs
end

section
/-! The decoder and encoder by the CTRL value as a number (30_encoding.md R80, R83). -/

namespace Sys2Proof

@[simp] theorem rsvField_toNat (v : Word) : (rsvField v).toNat = v.toNat / 16 := by
  have := v.isLt
  simp only [rsvField, BitVec.extractLsb'_toNat, Nat.shiftRight_eq_div_pow]
  omega

@[simp] theorem opField_toNat (v : Word) : (opField v).toNat = v.toNat % 16 := by
  simp only [opField, BitVec.extractLsb'_toNat, Nat.shiftRight_zero]

/-- A CTRL value is one of the four of R80's table, or 4 and above. -/
theorem ctrlWord_cases (v : Word) : v = 0 ∨ v = 1 ∨ v = 2 ∨ v = 3 ∨ 4 ≤ v.toNat := by
  bv_omega

/-- The values R83 reserves are 4 and above: those with RSV ≠ 0 or OP ≥ 4. -/
theorem isReservedWord_iff (w : Word) : isReservedWord w = true ↔ 4 ≤ w.toNat := by
  simp only [isReservedWord, Bool.not_eq_true', Bool.or_eq_false_iff, beq_eq_false_iff_ne]
  bv_omega

@[simp] theorem decodeCtrl_zero : decodeCtrl 0#32 = .nop := by decide
@[simp] theorem decodeCtrl_one : decodeCtrl 1#32 = .encode := by decide
@[simp] theorem decodeCtrl_two : decodeCtrl 2#32 = .decode := by decide
@[simp] theorem decodeCtrl_three : decodeCtrl 3#32 = .validate := by decide

/-- Every reserved value is BAD_OP, by its RSV field or by its OP field. -/
theorem decodeCtrl_of_reserved {v : Word} (h : 4 ≤ v.toNat) : decodeCtrl v = .badOp v := by
  unfold decodeCtrl
  split
  next => rfl
  next hrsv =>
    have hr : v.toNat / 16 = 0 := by
      rw [← rsvField_toNat, not_not.mp hrsv]
      rfl
    split
    case h_5 => rfl
    case h_1 hop | h_2 hop | h_3 hop | h_4 hop => rw [opField_toNat] at hop; omega

/-- Bits above the low 32 of a table word are no part of the CTRL value (log 11). -/
theorem tableWord_32 (w : Nat) : tableWord 32 w = BitVec.ofNat 32 w :=
  BitVec.eq_of_toNat_eq (by simp [tableWord])

end Sys2Proof
end

section
/-! Proofs of the family 30_encoding.md: the decoder, and the step that runs what it reads. -/

namespace Sys2Proof.Proofs

open Sys2Proof.Machine

/-- Settles O2: an operation is one of four words or a reserved one, and a word is one of four values or
a reserved one. -/
theorem decodeAndEncodeAgree : Obligations.DecodeAndEncodeAgree := by
  refine ⟨fun i hi => ?_, fun w => ?_⟩
  · cases i with
    | nop => exact decodeCtrl_zero
    | encode => exact decodeCtrl_one
    | decode => exact decodeCtrl_two
    | validate => exact decodeCtrl_three
    | badOp w => exact decodeCtrl_of_reserved ((isReservedWord_iff w).mp hi)
  · obtain rfl | rfl | rfl | rfl | h := ctrlWord_cases w
    · exact ⟨rfl, rfl⟩
    · exact ⟨rfl, rfl⟩
    · exact ⟨rfl, rfl⟩
    · exact ⟨rfl, rfl⟩
    · rw [decodeCtrl_of_reserved h]
      exact ⟨(isReservedWord_iff w).mpr h, rfl⟩

/-- Settles O1: RSV = 0 with OP below 4 leaves only the values 0 to 3, and everything else is reserved. -/
theorem ctrlWordSelectsOperation : Obligations.CtrlWordSelectsOperation := by
  intro v
  refine ⟨?table, fun h => decodeCtrl_of_reserved (by omega), ?nop, ?encode, ?decode, ?validate,
    fun _ h => decodeCtrl_of_reserved (by omega)⟩
  case table =>
    obtain rfl | rfl | rfl | rfl | h := ctrlWord_cases v
    · rfl
    · rfl
    · rfl
    · rfl
    · rw [decodeCtrl_of_reserved h, if_neg, if_neg, if_neg, if_neg] <;> bv_omega
  case nop =>
    intro hrsv hop
    rw [show v = 0#32 by bv_omega, decodeCtrl_zero]
  case encode =>
    intro hrsv hop
    rw [show v = 1#32 by bv_omega, decodeCtrl_one]
  case decode =>
    intro hrsv hop
    rw [show v = 2#32 by bv_omega, decodeCtrl_two]
  case validate =>
    intro hrsv hop
    rw [show v = 3#32 by bv_omega, decodeCtrl_three]

/-- Settles O3: the sample words above 3 are reserved. -/
theorem sampleWordsDecode : Obligations.SampleWordsDecode :=
  ⟨decodeCtrl_zero, decodeCtrl_one, decodeCtrl_two, decodeCtrl_three,
    decodeCtrl_of_reserved (by decide), decodeCtrl_of_reserved (by decide),
    decodeCtrl_of_reserved (by decide), decodeCtrl_of_reserved (by decide),
    decodeCtrl_of_reserved (by decide)⟩

/-- Settles O5: the queued CTRL write is the head of the host's list, and taking it off gives back the
state it was queued on. -/
theorem fetchWordRunsItsOperation : Obligations.FetchWordRunsItsOperation := by
  intro s w _
  refine ⟨by rw [decodeTableWord, if_pos le_rfl, tableWord_32], ?_⟩
  rw [← tableWord_32]
  calc step (s.withFetchWord 32 w)
      = transact (.write 0x00 (tableWord 32 w)) ((s.withFetchWord 32 w).setPending s.pending) :=
        step_of_bus rfl
    _ = exec (decodeCtrl (tableWord 32 w)) s := transact_ctrl _ s

end Sys2Proof.Proofs
end

section
/-! Host scripts: the word of a value, and runs of the transactions a script stands for
(30_encoding.md R85 to R91). -/

namespace Sys2Proof.Machine

/-! ### Values and targets (R85) -/

theorem scriptWord_of_fits {v : Int} (h : -2 ^ 31 ≤ v ∧ v ≤ 2 ^ 32 - 1) :
    scriptWord v = some (BitVec.ofInt 32 v) := if_pos h

theorem scriptWord_of_out_of_range {v : Int} (h : v < -2 ^ 31 ∨ 2 ^ 32 - 1 < v) :
    scriptWord v = none := if_neg (by omega)

/-- A 32-bit word is its value modulo `2^32`: two's complement when negative. -/
theorem ofInt_word_toNat (v : Int) : ((BitVec.ofInt 32 v).toNat : Int) = v % 2 ^ 32 := by
  rw [BitVec.toNat_ofInt]
  exact Int.toNat_of_nonneg (Int.emod_nonneg v (by decide))

/-- The address of slot `k`. -/
theorem slotAddr_toNat {k : Nat} (hk : k < 50) : (BitVec.ofNat 7 (0x10 + k)).toNat = 0x10 + k :=
  Nat.mod_eq_of_lt (by omega)

theorem slotAddr_ne_ctrl {k : Nat} (hk : k < 50) : BitVec.ofNat 7 (0x10 + k) ≠ 0x00 := by
  intro h
  have h0 : (BitVec.ofNat 7 (0x10 + k)).toNat = 0 := by rw [h]; rfl
  rw [slotAddr_toNat hk] at h0
  omega

/-! ### Runs of transactions -/

/-- Two runs one after the other are one run. -/
theorem runsTo_add {j k : Nat} {s t u : State} (hst : RunsTo j s t) (htu : RunsTo k t u) :
    RunsTo (j + k) s u := by
  induction j generalizing s with
  | zero => rwa [Nat.zero_add, (runsTo_zero s t).mp hst]
  | succ j ih =>
    obtain ⟨m, hstep, -⟩ := step_has_next s
    rw [Nat.succ_add, runsTo_succ_of_step hstep]
    exact ih ((runsTo_succ_of_step hstep t).mp hst)

/-- A stored write neither depends on the host's list nor changes it. -/
theorem busStore_setPending (a : Addr) (v : Word) (s : State) (es : List HostEvent) :
    busStore a v (s.setPending es) = (busStore a v s).setPending es := by
  unfold busStore
  cases busTarget a <;> rfl

/-- The first transaction of a script is one step. -/
theorem runsTo_transaction {t : Transaction} {ts : List Transaction} {s u : State}
    (h : transact t (s.withTransactions ts) = .next u) :
    RunsTo 1 (s.withTransactions (t :: ts)) u := by
  have hstep : step (s.withTransactions (t :: ts)) = .next u :=
    (step_of_bus (rest := ts.map .bus) rfl).trans h
  exact (runsTo_succ_of_step hstep u).mpr ((runsTo_zero u u).mpr rfl)

theorem runsTo_write {a : Addr} (ha : a ≠ 0x00) (v : Word) (ts : List Transaction) (s : State) :
    RunsTo 1 (s.withTransactions (.write a v :: ts)) ((busStore a v s).withTransactions ts) :=
  runsTo_transaction <|
    (transact_write ha v _).trans (congrArg _ (busStore_setPending a v s (ts.map .bus)))

theorem runsTo_read (a : Addr) (ts : List Transaction) (s : State) :
    RunsTo 1 (s.withTransactions (.read a :: ts))
      ((s.record (busRead a s)).withTransactions ts) :=
  runsTo_transaction rfl

/-- A run of reads changes the host's record alone: the words at their addresses, in order. -/
theorem runsTo_reads (as : List Addr) (s : State) :
    RunsTo as.length (s.withTransactions (as.map .read))
      { s with pending := [], recorded := s.recorded ++ as.map (busRead · s) } := by
  induction as generalizing s with
  | nil => exact (runsTo_zero _ _).mpr (by simp [State.withTransactions, State.setPending])
  | cons a as ih =>
    have h := runsTo_add (runsTo_read a (as.map .read) s) (ih (s.record (busRead a s)))
    simpa [Nat.add_comm] using h

end Sys2Proof.Machine
end

section
/-! Loading and dumping the Pulse Train buffer (30_encoding.md R89). -/

namespace Sys2Proof.Machine

/-- `WR PT[k], v`, as a transaction. -/
def slotWrite (k : Nat) (v : Int) : Transaction :=
  .write (BitVec.ofNat 7 (0x10 + k)) (BitVec.ofInt 32 v)

/-- Of values that fit, the slot writes are one for each value, at the slots from `k` on. -/
theorem slotWrites_of_fit (k : Nat) {vs : List Int}
    (hfit : ∀ n ∈ vs, -2 ^ 31 ≤ n ∧ n ≤ 2 ^ 32 - 1) :
    slotWrites k vs = some (vs.mapIdx fun i v => slotWrite (k + i) v) := by
  induction vs generalizing k with
  | nil => rfl
  | cons v vs ih =>
    obtain ⟨hv, hvs⟩ := List.forall_mem_cons.mp hfit
    simp [slotWrites, scriptWord_of_fits hv, ih (k + 1) hvs, List.mapIdx_cons, slotWrite,
      Nat.add_comm, Nat.add_left_comm]

/-- Setting slot `k` fixes the slots up to and with `k`: those below it stay, and it holds the word. -/
theorem take_succ_toList_set (p : Vector Word 50) {k : Nat} (hk : k < 50) (w : Word) :
    (p.set k w).toList.take (k + 1) = p.toList.take k ++ [w] := by
  rw [Vector.toList_set, List.take_add_one, List.take_set_of_le le_rfl]
  simp [hk]

/-- Writing values to the slots from `k` to the last leaves the slots below `k` and puts the values
after them. -/
theorem runsTo_slotWrites (vs : List Int) (k : Nat) (hlen : k + vs.length = 50)
    (ts : List Transaction) (s : State) :
    ∃ p : Vector Word 50, p.toList = s.pt.toList.take k ++ vs.map (BitVec.ofInt 32) ∧
      RunsTo vs.length
        (s.withTransactions ((vs.mapIdx fun i v => slotWrite (k + i) v) ++ ts))
        ((s.setPt p).withTransactions ts) := by
  induction vs generalizing k s with
  | nil =>
    refine ⟨s.pt, ?_, (runsTo_zero _ _).mpr rfl⟩
    rw [List.length_nil, Nat.add_zero] at hlen
    simp [hlen]
  | cons v vs ih =>
    have hk : k < 50 := by rw [List.length_cons] at hlen; omega
    have hstore : busStore (BitVec.ofNat 7 (0x10 + k)) (BitVec.ofInt 32 v) s =
        s.setPt (s.pt.set k (BitVec.ofInt 32 v)) :=
      busStore_slot _ s (k := ⟨k, hk⟩) (slotAddr_toNat hk)
    obtain ⟨p, hp, hrun⟩ := ih (k + 1) (by rw [List.length_cons] at hlen; omega)
      (s.setPt (s.pt.set k (BitVec.ofInt 32 v)))
    refine ⟨p, ?_, ?_⟩
    · rw [hp, State.setPt_pt, take_succ_toList_set s.pt hk]
      simp
    · have hfirst := runsTo_write (slotAddr_ne_ctrl hk) (BitVec.ofInt 32 v)
        ((vs.mapIdx fun i v => slotWrite (k + 1 + i) v) ++ ts) s
      rw [hstore] at hfirst
      have h := runsTo_add hfirst hrun
      simpa [List.mapIdx_cons, slotWrite, Nat.add_comm, Nat.add_left_comm, State.setPt] using h

/-- The addresses DUMPPT reads hold the whole train, in order. -/
theorem busRead_slots (s : State) :
    (List.range 50).map (fun k => busRead (BitVec.ofNat 7 (0x10 + k)) s) = s.pt.toList := by
  refine List.ext_getElem (by simp) fun k hk _ => ?_
  have hk' : k < 50 := by simpa using hk
  simpa using busRead_slot s (k := ⟨k, hk'⟩) (slotAddr_toNat hk')

/-- DUMPPT records the train and changes nothing of the block. -/
theorem runsTo_dumpPt (s : State) :
    RunsTo 50 (s.withTransactions expandDumpPt)
      { s with pending := [], recorded := s.recorded ++ s.pt.toList } := by
  have h := runsTo_reads ((List.range 50).map fun k => BitVec.ofNat 7 (0x10 + k)) s
  rw [← busRead_slots s]
  simpa [expandDumpPt, Function.comp_def] using h

end Sys2Proof.Machine
end

section
/-! The words SETCFG and SETCMD write, and the fields the flags of a SEND give (30_encoding.md R87,
R88, R91). -/

namespace Sys2Proof.Machine

/-! ### SETCFG -/

/-- The word of a SETCFG: the mode in bit 1, the selected unit in bit 0. -/
def setCfgWord (unit : Int) (mode : EncMode) : Word :=
  BitVec.ofNat 32 ((if mode = .frame then 2 else 0) + (if unit = 258 then 1 else 0))

/-- SETCFG writes its word for the two units of UNIT_TABLE, and is a script error for any other. -/
theorem expandSetCfg_eq (unit : Int) (mode : EncMode) :
    expandSetCfg unit mode =
      if unit = 264 ∨ unit = 258 then some [.write 0x02 (setCfgWord unit mode)] else none := by
  unfold expandSetCfg
  by_cases h264 : unit = 264
  · subst h264; cases mode <;> rfl
  · by_cases h258 : unit = 258
    · subst h258; cases mode <;> rfl
    · simp [h264, h258]

theorem setCfgWord_toNat (unit : Int) (mode : EncMode) :
    (setCfgWord unit mode).toNat =
      (if mode = .frame then 2 else 0) + (if unit = 258 then 1 else 0) := by
  unfold setCfgWord
  split_ifs <;> rfl

/-- With the word in CFG, its unit is the timing unit in force. -/
theorem timingUnit_setCfgWord {unit : Int} (hunit : unit = 264 ∨ unit = 258) (mode : EncMode)
    (s : State) : ((s.setCfg ((setCfgWord unit mode).setWidth 2)).timingUnit : Int) = unit := by
  rw [timingUnit_eq, State.setCfg_cfg]
  obtain rfl | rfl := hunit <;> cases mode <;> rfl

/-- With the word in CFG, its mode is the encoder variant. -/
theorem mode_setCfgWord (unit : Int) (mode : EncMode) (s : State) :
    (s.setCfg ((setCfgWord unit mode).setWidth 2)).mode = mode := by
  rw [State.mode, State.setCfg_cfg, setCfgWord]
  cases mode <;> split_ifs <;> simp_all

/-! ### SETCMD -/

section
variable (id unit : Option Int) (w : StateWord)

theorem setCmdFlags_toNat :
    (setCmdFlags id unit w).toNat =
      (if id = none then 0 else 1) + (if unit = none then 0 else 2) +
        (if w = .on ∨ w = .both then 4 else 0) + (if w = .off ∨ w = .both then 8 else 0) := by
  cases id <;> cases unit <;> cases w <;> rfl

/-- The four fields of IN_FLAGS after a SETCMD. -/
theorem setCmdFlags_fields :
    (idPresent ((setCmdFlags id unit w).setWidth 4) = true ↔ id ≠ none) ∧
    (unitPresent ((setCmdFlags id unit w).setWidth 4) = true ↔ unit ≠ none) ∧
    (onFlag ((setCmdFlags id unit w).setWidth 4) = true ↔ w = .on ∨ w = .both) ∧
    (offFlag ((setCmdFlags id unit w).setWidth 4) = true ↔ w = .off ∨ w = .both) := by
  cases id <;> cases unit <;> cases w <;>
    simp [setCmdFlags, idPresent, unitPresent, onFlag, offFlag]

end

/-- The value of a field fits when it is absent, which is 0, or is in range. -/
theorem scriptWord_getD {x : Option Int} (h : ∀ n, x = some n → -2 ^ 31 ≤ n ∧ n ≤ 2 ^ 32 - 1) :
    scriptWord (x.getD 0) = some (BitVec.ofInt 32 (x.getD 0)) := by
  cases x with
  | none => rfl
  | some n => exact scriptWord_of_fits (h n rfl)

/-- The three writes to the command inputs leave their values in them. -/
theorem runsTo_setCmd (i u f : Word) (s : State) :
    RunsTo 3 (s.withTransactions [.write 0x04 i, .write 0x05 u, .write 0x03 f])
      { s with pending := [], inId := i, inUnit := u, inFlags := f.setWidth 4 } := by
  have hid := runsTo_write (a := 0x04) (by decide) i [.write 0x05 u, .write 0x03 f] s
  rw [busStore_inId _ _ rfl] at hid
  have hunit := runsTo_write (a := 0x05) (by decide) u [.write 0x03 f] (s.setInId i)
  rw [busStore_inUnit _ _ rfl] at hunit
  have hflags := runsTo_write (a := 0x03) (by decide) f [] ((s.setInId i).setInUnit u)
  rw [busStore_inFlags _ _ rfl] at hflags
  exact runsTo_add (runsTo_add hid hunit) hflags

/-! ### SEND -/

/-- A part `g` of what the flags name is `x` when every flag that sets it sets it to `x`, no other flag
touches it, and it is `x` at the start if no flag sets it. -/
theorem foldl_apply_field {α : Type} (g : SendFields → α) (sets : CliFlag → Prop) (x : α)
    (hother : ∀ f c, ¬ sets c → g (SendFields.apply f c) = g f) {flags : List CliFlag}
    (hset : ∀ c ∈ flags, sets c → ∀ f, g (SendFields.apply f c) = x) {f : SendFields}
    (hstart : (∀ c ∈ flags, ¬ sets c) → g f = x) :
    g (flags.foldl SendFields.apply f) = x := by
  induction flags generalizing f with
  | nil => exact hstart (by simp)
  | cons c cs ih =>
    obtain ⟨hc, hcs⟩ := List.forall_mem_cons.mp hset
    refine ih hcs fun hrest => ?_
    by_cases h : sets c
    · exact hc h f
    · rw [hother f c h]
      exact hstart (List.forall_mem_cons.mpr ⟨h, hrest⟩)

/-- The id that the flags agree on, absent when none names one. -/
theorem sendFields_id {flags : List CliFlag} {id : Option Int}
    (hnamed : ∀ n, .id n ∈ flags → id = some n) (habsent : (∀ n, .id n ∉ flags) → id = none) :
    (flags.foldl SendFields.apply {}).id = id := by
  refine foldl_apply_field (·.id) (fun c => ∃ n, c = .id n) id ?_ ?_ ?_
  · intro f c hc
    cases c with
    | id n => exact absurd ⟨n, rfl⟩ hc
    | _ => rfl
  · rintro c hc ⟨n, rfl⟩ f
    exact (hnamed n hc).symm
  · exact fun h => (habsent fun n hn => h _ hn ⟨n, rfl⟩).symm

/-- The unit that the flags agree on, absent when none names one. -/
theorem sendFields_unit {flags : List CliFlag} {unit : Option Int}
    (hnamed : ∀ n, .unit n ∈ flags → unit = some n)
    (habsent : (∀ n, .unit n ∉ flags) → unit = none) :
    (flags.foldl SendFields.apply {}).unit = unit := by
  refine foldl_apply_field (·.unit) (fun c => ∃ n, c = .unit n) unit ?_ ?_ ?_
  · intro f c hc
    cases c with
    | unit n => exact absurd ⟨n, rfl⟩ hc
    | _ => rfl
  · rintro c hc ⟨n, rfl⟩ f
    exact (hnamed n hc).symm
  · exact fun h => (habsent fun n hn => h _ hn ⟨n, rfl⟩).symm

theorem sendFields_on (flags : List CliFlag) :
    (flags.foldl SendFields.apply {}).on = decide (.on ∈ flags) := by
  refine foldl_apply_field (·.on) (· = .on) _ ?_ ?_ ?_
  · intro f c hc
    cases c with
    | on => exact absurd rfl hc
    | _ => rfl
  · rintro c hc rfl f
    exact (decide_eq_true hc).symm
  · exact fun h => (decide_eq_false fun hon => h _ hon rfl).symm

theorem sendFields_off (flags : List CliFlag) :
    (flags.foldl SendFields.apply {}).off = decide (.off ∈ flags) := by
  refine foldl_apply_field (·.off) (· = .off) _ ?_ ?_ ?_
  · intro f c hc
    cases c with
    | off => exact absurd rfl hc
    | _ => rfl
  · rintro c hc rfl f
    exact (decide_eq_true hc).symm
  · exact fun h => (decide_eq_false fun hoff => h _ hoff rfl).symm

/-- A state word is given by whether it turns on and whether it turns off. -/
theorem stateWord_eq {f : SendFields} {w : StateWord}
    (hon : f.on = decide (w = .on ∨ w = .both)) (hoff : f.off = decide (w = .off ∨ w = .both)) :
    f.stateWord = w := by
  unfold SendFields.stateWord
  rw [hon, hoff]
  cases w <;> rfl

end Sys2Proof.Machine
end

section
/-! Proofs of the family 30_encoding.md: the statements of a host script. -/

namespace Sys2Proof.Proofs

open Sys2Proof.Machine

/-- Settles O39: the four expansions are R80's words, and R85's text of each is evaluated. -/
theorem operationStatementsAreCtrlWrites : Obligations.OperationStatementsAreCtrlWrites :=
  ⟨rfl, rfl, rfl, rfl, by decide, by decide, by decide, by decide⟩

/-- Settles O40: a transaction goes to the target's address with the value's word, if it has one. -/
theorem baseStatementsAreOneTransaction : Obligations.BaseStatementsAreOneTransaction := by
  refine ⟨fun t a v ha => ⟨?read, ?fits, ?error⟩, rfl, rfl, rfl, rfl, rfl, rfl, rfl, rfl,
    fun k => ⟨_, rfl, slotAddr_toNat k.isLt⟩, fun n => rfl⟩
  case read => rw [Stmt.expand, expandRead, ha]; rfl
  case fits =>
    intro hlow hhigh
    refine ⟨BitVec.ofInt 32 v, ?_, ofInt_word_toNat v⟩
    rw [Stmt.expand, expandWrite, ha, scriptWord_of_fits ⟨hlow, hhigh⟩]
    rfl
  case error =>
    intro h
    rw [Stmt.expand, expandWrite, ha, scriptWord_of_out_of_range h]
    rfl

/-- Settles O41: the three writes are run in turn, and IN_FLAGS keeps the four bits of its word. -/
theorem setCmdLoadsInputs : Obligations.SetCmdLoadsInputs := by
  intro id unit w s hfit
  have hid := scriptWord_getD fun n h => hfit n (.inl h)
  have hunit := scriptWord_getD fun n h => hfit n (.inr h)
  refine ⟨setCmdFlags id unit w, _, _, rfl, setCmdFlags_toNat id unit w, ?_, runsTo_setCmd _ _ _ s,
    rfl, rfl, rfl, setCmdFlags_fields id unit w⟩
  rw [Stmt.expand, expandSetCmd, hid, hunit]
  rfl

/-- Settles O42: the one write leaves its low two bits in CFG, which select the unit and the mode. -/
theorem setCfgSelectsUnitAndMode : Obligations.SetCfgSelectsUnitAndMode := by
  intro unit mode
  refine ⟨fun h264 h258 => ?_, fun hunit s => ?_⟩
  · rw [Stmt.expand, expandSetCfg_eq, if_neg (by tauto)]
  · have hrun := runsTo_write (a := 0x02) (by decide) (setCfgWord unit mode) [] s
    rw [busStore_cfg _ _ rfl] at hrun
    refine ⟨setCfgWord unit mode, _, ?_, setCfgWord_toNat unit mode, hrun, rfl,
      timingUnit_setCfgWord hunit mode s, mode_setCfgWord unit mode s⟩
    rw [Stmt.expand, expandSetCfg_eq, if_pos hunit]

/-- Settles O43: each field of the SETCMD is the one the flags give, and both scripts are that SETCMD
followed by the CTRL write of ENCODE. -/
theorem sendIsSetCmdThenEncode : Obligations.SendIsSetCmdThenEncode := by
  intro flags id unit w hid hnoId hunit hnoUnit hon hoff
  have hw : (flags.foldl SendFields.apply {}).stateWord = w :=
    stateWord_eq ((sendFields_on flags).trans (decide_eq_decide.mpr hon))
      ((sendFields_off flags).trans (decide_eq_decide.mpr hoff))
  calc expandSend flags
      = (expandSetCmd id unit w).map (· ++ ctrlWrite 0x00000001) := by
        rw [expandSend, sendFields_id hid hnoId, sendFields_unit hunit hnoUnit, hw]
    _ = expandScript [.setCmd id unit w, .encode] := by
        simp only [expandScript, Stmt.expand]
        cases expandSetCmd id unit w <;> rfl

/-- Settles O44: the writes fill the whole buffer with the values' words, and the reads record it. -/
theorem loadThenDumpReturnsTheTrain : Obligations.LoadThenDumpReturnsTheTrain := by
  intro values s
  refine ⟨fun hlen => if_neg hlen, fun hlen hfit => ?_⟩
  obtain ⟨p, hp, hload⟩ := runsTo_slotWrites values 0 (by omega) expandDumpPt s
  rw [hlen] at hload
  have hexpand : expandLoadPt values = some (values.mapIdx fun i v => slotWrite (0 + i) v) := by
    rw [expandLoadPt, if_pos hlen, slotWrites_of_fit 0 hfit]
  refine ⟨_, expandDumpPt, _, hexpand, rfl, by simp [hlen], by simp [expandDumpPt], ?slots,
    runsTo_add hload (runsTo_dumpPt _), rfl, ?recorded⟩
  case slots =>
    intro k hk
    have hkv : k < values.length := by omega
    exact ⟨by simp [slotWrite, hkv], by simp [expandDumpPt, hk]⟩
  case recorded =>
    simp [hp]

end Sys2Proof.Proofs
end

section
/-! The command in the input registers, and what the two operations that validate it do with it
(40_validator.md R100 to R107). -/

namespace Sys2Proof.Machine

/-! ### The ranges -/

/-- Read signed or unsigned, the same words lie in a range from 0: a negative word is large. -/
theorem toInt_mem_range_iff (w : Word) {n : Nat} (hn : n < 2 ^ 31) :
    (0 ≤ w.toInt ∧ w.toInt ≤ n) ↔ w.toNat ≤ n := by
  have := w.isLt
  rw [BitVec.toInt_eq_toNat_cond]
  split_ifs <;> omega

/-- The acceptance set, with the ranges read as unsigned words (R107). -/
theorem accepted_iff_toNat (s : State) :
    Accepted s ↔ s.inFlags.getLsbD 0 = true ∧ s.inFlags.getLsbD 1 = true ∧
      (s.inFlags.getLsbD 2 = true ∨ s.inFlags.getLsbD 3 = true) ∧
      s.inId.toNat ≤ 63 ∧ s.inUnit.toNat ≤ 15 := by
  rw [← toInt_mem_range_iff s.inId (by decide), ← toInt_mem_range_iff s.inUnit (by decide)]
  rfl

/-! ### The command -/

/-- The command the input registers hold, cut to the widths of its fields; off wins (R105, R106). -/
def State.inputCommand (s : State) : Command where
  id := s.inId.extractLsb' 0 6
  unit := s.inUnit.extractLsb' 0 4
  on := !s.inFlags.getLsbD 3

section
variable (s : State)

/-- `validate` answers a command exactly on the acceptance set: the one in the registers. -/
theorem verdict_eq_ok_iff (c : Command) :
    s.verdict = .ok c ↔ Accepted s ∧ c = s.inputCommand := by
  rw [State.verdict, validate_eq_ok_iff, Accepted, State.inputCommand]
  tauto

theorem inputCommand_id_eq : s.inputCommand.id = BitVec.ofNat 6 (s.inId.toNat % 64) :=
  BitVec.eq_of_toNat_eq (by simp [State.inputCommand])

theorem inputCommand_unit_eq : s.inputCommand.unit = BitVec.ofNat 4 (s.inUnit.toNat % 16) :=
  BitVec.eq_of_toNat_eq (by simp [State.inputCommand])

end

section
variable {s : State} (h : Accepted s)
include h

theorem verdict_of_accepted : s.verdict = .ok s.inputCommand :=
  (verdict_eq_ok_iff s _).mpr ⟨h, rfl⟩

/-- The cut to 6 bits loses nothing of an accepted id. -/
theorem inputCommand_id_toNat : s.inputCommand.id.toNat = s.inId.toNat := by
  obtain ⟨-, -, -, hid, -⟩ := (accepted_iff_toNat s).mp h
  rw [inputCommand_id_eq, BitVec.toNat_ofNat]
  omega

/-- The cut to 4 bits loses nothing of an accepted unit. -/
theorem inputCommand_unit_toNat : s.inputCommand.unit.toNat = s.inUnit.toNat := by
  obtain ⟨-, -, -, -, hunit⟩ := (accepted_iff_toNat s).mp h
  rw [inputCommand_unit_eq, BitVec.toNat_ofNat]
  omega

/-- One of ON and OFF is set in an accepted command, so it is on when ON alone is set (R105). -/
theorem inputCommand_on_iff :
    s.inputCommand.on = true ↔ s.inFlags.getLsbD 2 = true ∧ s.inFlags.getLsbD 3 = false := by
  obtain ⟨-, -, hstate, -⟩ := h
  rw [State.inputCommand, Bool.not_eq_true']
  constructor
  · intro hoff
    exact ⟨hstate.resolve_right (Bool.eq_false_iff.mp hoff), hoff⟩
  · exact And.right

end

/-! ### VALIDATE and ENCODE, by what `validate` answers -/

section
variable {i : Instr} (hi : i = .validate ∨ i = .encode) {s : State}
include hi

/-- On an error both write its code to STATUS and nothing else (R104, R203). -/
theorem exec_of_verdict_error {e : ErrCode} (h : s.verdict = .error e) :
    exec i s = .next { s with status := errStatus e } := by
  obtain rfl | rfl := hi
  · rw [exec, execValidate_eq, h]
  · rw [exec, execEncode_eq, h]

/-- On an accepted command both report it in OUT_CMD and leave the inputs as they were. -/
theorem exec_of_accepted (h : Accepted s) :
    ∃ t : State, exec i s = .next t ∧ t.status = 8#4 ∧ t.outCmd = s.inputCommand ∧
      t.inFlags = s.inFlags ∧ t.inId = s.inId ∧ t.inUnit = s.inUnit := by
  have hv := verdict_of_accepted h
  obtain rfl | rfl := hi
  · exact ⟨_, exec_validate_of_ok hv, rfl, rfl, rfl, rfl, rfl⟩
  · exact ⟨_, exec_encode_of_ok hv, rfl, rfl, rfl, rfl, rfl⟩

/-- Both leave the STATUS of success exactly on the acceptance set. -/
theorem status_eq_ok_iff_accepted {t : State} (ht : exec i s = .next t) :
    t.status = 8#4 ↔ Accepted s := by
  cases hv : s.verdict with
  | error e =>
    cases (exec_of_verdict_error hi hv).symm.trans ht
    have hcode : errStatus e ≠ 8#4 := by cases e <;> decide
    have hrejected : ¬ Accepted s := fun h => by cases (verdict_of_accepted h).symm.trans hv
    exact iff_of_false hcode hrejected
  | ok c =>
    have haccepted : Accepted s := ((verdict_eq_ok_iff s c).mp hv).1
    obtain ⟨u, hu, hstatus, -⟩ := exec_of_accepted hi haccepted
    cases hu.symm.trans ht
    exact iff_of_true hstatus haccepted

end

end Sys2Proof.Machine
end

section
/-! Proofs of the family 40_validator.md: the outcome of VALIDATE, its acceptance set, and the
command it and ENCODE report. -/

namespace Sys2Proof.Proofs

open Sys2Proof.Machine

/-- Settles O16: `validate` makes the same checks in the same order. -/
theorem validateReportsFirstErrorOrCommand : Obligations.ValidateReportsFirstErrorOrCommand := by
  intro s
  rw [← inputCommand_id_eq, ← inputCommand_unit_eq, exec, execValidate_eq, State.verdict,
    validate_eq]
  split_ifs with hmissing hid hunit
  · simp only [errStatus_missingField]
  · simp only [errStatus_idOutOfRange]
  · simp only [errStatus_unitOutOfRange]
  · rfl

/-- Settles O17: success is on the acceptance set, and each rejected word fails the check of its
code, the first that fails. -/
theorem validateAcceptsExactlyTheRanges : Obligations.ValidateAcceptsExactlyTheRanges := by
  intro s
  have hnext := validateReportsFirstErrorOrCommand s
  refine ⟨_, hnext, (status_eq_ok_iff_accepted (.inl rfl) hnext).trans (accepted_iff_toNat s),
    fun hidPresent hunitPresent hstate => ?_⟩
  have hsupplied : ¬ ((s.inFlags.getLsbD 2 = false ∧ s.inFlags.getLsbD 3 = false) ∨
      s.inFlags.getLsbD 0 = false ∨ s.inFlags.getLsbD 1 = false) := by
    rw [hidPresent, hunitPresent]
    obtain h | h := hstate <;> simp [h]
  rw [if_neg hsupplied]
  refine ⟨fun hid => ?id, fun hid hunit => ?unit⟩
  case id =>
    have hrange : s.inId.toInt < 0 ∨ 63 < s.inId.toInt := by
      obtain h | h := hid <;> rw [h] <;> decide
    rw [if_pos hrange]
  case unit =>
    have hidRange := (toInt_mem_range_iff s.inId (by decide)).mpr hid
    have hrange : s.inUnit.toInt < 0 ∨ 15 < s.inUnit.toInt := by
      obtain h | h := hunit <;> rw [h] <;> decide
    rw [if_neg (by omega), if_pos hrange]

/-- Settles O18: both report the command in the input registers. -/
theorem acceptedCommandIsEchoedAndOffWins : Obligations.AcceptedCommandIsEchoedAndOffWins := by
  intro s h i hi
  obtain ⟨t, hnext, hstatus, hcmd, hinputs⟩ := exec_of_accepted hi h
  refine ⟨t, hnext, hstatus, ?_⟩
  rw [hcmd]
  exact ⟨inputCommand_id_toNat h, inputCommand_unit_toNat h, inputCommand_on_iff h, hinputs⟩

end Sys2Proof.Proofs
end

section
/-! The timing values of the two units fit a slot, and the classifier compares them as numbers
(41_pulse_lut.md R125, R127, R128). -/

namespace Sys2Proof.Machine

/-! ### The timing values -/

theorem footerDiv_bounds : 1 ≤ Config.footerDiv ∧ Config.footerDiv ≤ 16268815 :=
  ⟨Nat.succ_pos _, Config.footerDivLessOne.isLt⟩

section
variable (sel : Bool)

theorem unitTable_le : Config.unitTable sel ≤ 264 := by cases sel <;> decide

theorem longPulse_unitTable_le : longPulse (Config.unitTable sel) ≤ 792 :=
  Nat.mul_le_mul_left 3 (unitTable_le sel)

/-- The bound of FOOTER_DIV is the greatest for which the footer fits: 16268815 · 264 = 2^32 - 136. -/
theorem footerPulse_unitTable_lt : footerPulse (Config.unitTable sel) < 2 ^ 32 := by
  obtain ⟨-, hmax⟩ := footerDiv_bounds
  calc footerPulse (Config.unitTable sel)
      ≤ 16268815 * 264 := Nat.mul_le_mul hmax (unitTable_le sel)
    _ < 2 ^ 32 := by decide

theorem slotWord_longPulse_toNat :
    (slotWord (longPulse (Config.unitTable sel))).toNat = 3 * Config.unitTable sel :=
  slotWord_toNat (Nat.lt_of_le_of_lt (longPulse_unitTable_le sel) (by decide))

end

/-! ### The classifier -/

theorem classify_eq_high_iff (u : Nat) (v : Word) :
    classify u v = .high ↔ v = slotWord (longPulse u) := by
  unfold classify
  split_ifs with h <;> simp [h]

/-- A word that is not HIGH is LOW: there are no other classes. -/
theorem classify_eq_low_iff (u : Nat) (v : Word) : classify u v = .low ↔ classify u v ≠ .high := by
  cases classify u v <;> decide

section
variable (s : State)

/-- A word is the long pulse of the unit in force exactly when its value is `3u`: none wraps. -/
theorem eq_slotWord_longPulse_iff (v : Word) :
    v = slotWord (longPulse s.timingUnit) ↔ v.toNat = 3 * s.timingUnit := by
  rw [← BitVec.toNat_inj, State.timingUnit, slotWord_longPulse_toNat]

theorem classify_timingUnit_eq_high_iff (v : Word) :
    classify s.timingUnit v = .high ↔ v.toNat = 3 * s.timingUnit :=
  (classify_eq_high_iff _ v).trans (eq_slotWord_longPulse_iff s v)

theorem bitOf_timingUnit_iff (pt : Vector Word 50) (g : Fin 12) :
    bitOf s.timingUnit pt g = true ↔ pt[groupSlot g 3].toNat = 3 * s.timingUnit := by
  rw [bitOf_eq, decide_eq_true_iff, eq_slotWord_longPulse_iff]

end

end Sys2Proof.Machine
end

section
/-! Proofs of the family 41_pulse_lut.md: the timing values, and the classifier. -/

namespace Sys2Proof.Proofs

open Sys2Proof.Machine

/-- Settles O30: the four patterns are evaluated. -/
theorem timingLutEntries : Obligations.TimingLutEntries :=
  ⟨rfl, rfl, rfl, rfl⟩

/-- Settles O31: `3u` fits a slot for the unit in force, so equality of words is equality of values. -/
theorem classifierIsExactEquality : Obligations.ClassifierIsExactEquality := by
  intro s u hu
  obtain rfl : u = s.timingUnit := hu.trans (timingUnit_eq s).symm
  have hhigh := classify_timingUnit_eq_high_iff s
  refine ⟨rfl, fun v => ⟨(hhigh v).mpr, fun hne => ?low⟩, bitOf_timingUnit_iff s s.pt⟩
  case low => exact (classify_eq_low_iff _ v).mpr (mt (hhigh v).mp hne)

/-- Settles O32: both products are at most those of the greater unit and the greatest FOOTER_DIV. -/
theorem timingProductsAreExact : Obligations.TimingProductsAreExact := by
  intro sel
  obtain ⟨hmin, hmax⟩ := footerDiv_bounds
  exact ⟨hmin, hmax, slotWord_longPulse_toNat sel, slotWord_toNat (footerPulse_unitTable_lt sel),
    longPulse_unitTable_le sel, footerPulse_unitTable_lt sel⟩

end Sys2Proof.Proofs
end

section
/-! The two outcomes of ENCODE: the state it leaves on an accepted command, and an error in STATUS
alone (42_encoder.md R140, R146, R152). -/

namespace Sys2Proof.Machine

/-! ### CFG -/

section
variable {r s : State}

theorem mode_of_frame (h : s.cfg.getLsbD 1 = true) : s.mode = .frame := if_pos h

theorem mode_of_source (h : s.cfg.getLsbD 1 = false) : s.mode = .source := by
  rw [State.mode, h]; rfl

theorem timingUnit_eq_of_unitSel_eq (h : r.cfg.getLsbD 0 = s.cfg.getLsbD 0) :
    r.timingUnit = s.timingUnit := by
  rw [timingUnit_eq, timingUnit_eq, h]

end

/-! ### An accepted command -/

section
variable (s : State)

/-- The Bit Frame of the command in the input registers, in the mode in force. -/
def State.inputFrame : BitFrame := frameBits s.inputCommand s.mode

/-- The state an ENCODE of an accepted command leaves. -/
def State.encoded : State :=
  { s with
    status := 8#4, outCmd := s.inputCommand, frame := frameRegister s.inputFrame
    pt := train s.timingUnit s.inputFrame }

@[simp] theorem State.encoded_status : s.encoded.status = 8#4 := rfl
@[simp] theorem State.encoded_frame : s.encoded.frame = frameRegister s.inputFrame := rfl
@[simp] theorem State.encoded_pt : s.encoded.pt = train s.timingUnit s.inputFrame := rfl

end

theorem exec_encode_of_accepted {s : State} (h : Accepted s) :
    exec .encode s = .next s.encoded :=
  exec_encode_of_ok (verdict_of_accepted h)

/-- What ENCODE leaves depends on CFG and the command inputs alone, but for the host's own lists
(R146). -/
theorem encoded_eq_of_inputs_eq {r s : State} (hcfg : r.cfg = s.cfg)
    (hflags : r.inFlags = s.inFlags) (hid : r.inId = s.inId) (hunit : r.inUnit = s.inUnit) :
    r.encoded = { s.encoded with pending := r.pending, recorded := r.recorded } := by
  obtain ⟨_, _, _, _, _, _, _, _, _, _⟩ := r
  obtain ⟨_, _, _, _, _, _, _, _, _, _⟩ := s
  cases hcfg; cases hflags; cases hid; cases hunit
  rfl

/-! ### A command that is not accepted -/

/-- A command that is not accepted has an error, and it is one of the validator's three (R104). -/
theorem verdict_of_not_accepted {s : State} (h : ¬ Accepted s) :
    ∃ e, s.verdict = .error e ∧ 1 ≤ (errStatus e).toNat ∧ (errStatus e).toNat ≤ 3 := by
  have hok : ∀ c, s.verdict ≠ .ok c := fun c hc => h ((verdict_eq_ok_iff s c).mp hc).1
  rw [State.verdict, validate_eq] at hok ⊢
  split_ifs at hok ⊢
  · exact ⟨.missingField, rfl, by decide⟩
  · exact ⟨.idOutOfRange, rfl, by decide⟩
  · exact ⟨.unitOutOfRange, rfl, by decide⟩
  · exact absurd rfl (hok _)

/-! ### STATUS.ERR and STATUS.OUT_VALID of an outcome -/

theorem err_of_success {s : State} (h : s.status = 8#4) : s.err = 0 := by
  rw [State.err, h]; decide

theorem err_of_error {s : State} {e : ErrCode} (h : s.status = errStatus e) : s.err = e.code := by
  rw [State.err, h]; cases e <;> decide

theorem outValid_of_error {s : State} {e : ErrCode} (h : s.status = errStatus e) :
    s.outValid = false := by
  rw [State.outValid, h]; cases e <;> decide

end Sys2Proof.Machine
end

section
/-! The numbers in the slots of a Pulse Train, and the bits DECODE reads back from it (42_encoder.md
R144, R145, 41_pulse_lut.md R129). -/

namespace Sys2Proof.Machine

section
variable (s : State) (b : BitFrame)

theorem timingUnit_pos : 0 < s.timingUnit := by
  rw [timingUnit_eq]; split <;> decide

/-- No pattern has a value longer than its long pulse. -/
theorem pattern_le (u : Nat) (x : Bool) (j : Fin 4) : (pattern u x)[j] ≤ longPulse u := by
  have hu : u ≤ longPulse u := by simp only [longPulse, Config.longMultiplier]; omega
  fin_cases j <;> cases x <;> simp [pattern, hu]

/-- No value of a group overflows its slot (R125). -/
theorem train_group_toNat (g : Fin 12) (j : Fin 4) :
    (train s.timingUnit b)[groupSlot g j].toNat = (pattern s.timingUnit b[g])[j] := by
  have hfits : (pattern s.timingUnit b[g])[j] ≤ 792 :=
    (pattern_le _ _ _).trans (longPulse_unitTable_le s.unitSel)
  rw [train_group, slotWord_toNat (by omega)]

theorem train_footer_unit_toNat : (train s.timingUnit b)[48].toNat = s.timingUnit := by
  have hfits : s.timingUnit ≤ 264 := unitTable_le s.unitSel
  rw [train_footer_unit, slotWord_toNat (by omega)]

theorem train_footer_end_toNat :
    (train s.timingUnit b)[49].toNat = Config.footerDiv * s.timingUnit := by
  rw [train_footer_end, State.timingUnit, slotWord_toNat (footerPulse_unitTable_lt _), footerPulse]

/-- The fourth slot of a group is `3u` for 1 and `u` for 0, so the classifier tells them apart
(R129). -/
theorem bitOf_train (g : Fin 12) : bitOf s.timingUnit (train s.timingUnit b) g = b[g] := by
  have hpos := timingUnit_pos s
  have hlow : s.timingUnit ≠ 3 * s.timingUnit := by omega
  rw [Bool.eq_iff_iff, bitOf_timingUnit_iff, train_group_toNat]
  cases b[g] with
  | false => exact iff_of_false hlow Bool.false_ne_true
  | true => exact iff_of_true rfl rfl

/-- DECODE reads back the Bit Frame of a train under its own timing unit. -/
theorem trainBits_train : trainBits s.timingUnit (train s.timingUnit b) = b :=
  Vector.ext fun k hk => (trainBits_get _ _ ⟨k, hk⟩).trans (bitOf_train s b ⟨k, hk⟩)

end

end Sys2Proof.Machine
end

section
/-! The command a Bit Frame carries, and DECODE after ENCODE (42_encoder.md R141 to R143, R150,
R151). -/

namespace Sys2Proof.Machine

/-! ### Fields and layouts -/

/-- The bits of `x`, the most significant first, are a field with the value of `x`. -/
theorem fieldValue_getMsbD {n : Nat} (x : BitVec n) :
    fieldValue (List.ofFn fun k : Fin n => x.getMsbD k) = x.toNat := by
  have hbits : (BitVec.ofBoolListBE (List.ofFn fun k : Fin n => x.getMsbD k)).cast
      List.length_ofFn = x := by
    apply BitVec.eq_of_getMsbD_eq
    intro k hk
    rw [BitVec.getMsbD_cast, BitVec.getMsbD_ofBoolListBE,
      List.getD_eq_getElem _ _ (by simpa using hk), List.getElem_ofFn]
  rw [fieldValue_eq, ← BitVec.toNat_cast List.length_ofFn, hbits]

theorem fieldValue_append (as bs : List Bool) :
    fieldValue (as ++ bs) = fieldValue as * 2 ^ bs.length + fieldValue bs := by
  induction as with
  | nil => simp [fieldValue]
  | cons a as ih =>
    simp only [List.cons_append, fieldValue, ih, List.length_append, Nat.shiftLeft_eq, pow_add]
    ring

/-- The command whose layout is sent for `c`: in SOURCE mode the header marker takes the place of the
id's most significant bit, and the state is on (R142, R143). -/
def Command.sent (c : Command) : EncMode → Command
  | .source => { id := c.id ||| 32#6, unit := c.unit, on := true }
  | .frame => c

section
variable (c : Command)

theorem frameBits_eq_layoutBits_sent (m : EncMode) : frameBits c m = layoutBits (c.sent m) := by
  cases m with
  | frame => rfl
  | source =>
    apply Vector.ext
    intro k hk
    interval_cases k <;> simp [frameBits, layoutBits, Command.sent]

/-- A layout is the id, the unit, the reserved 0 and the state, each big-endian (R141). -/
theorem layoutBits_toList :
    (layoutBits c).toList =
      (List.ofFn fun k : Fin 6 => c.id.getMsbD k) ++
        (List.ofFn fun k : Fin 4 => c.unit.getMsbD k) ++ [false, c.on] := rfl

theorem commandOfFrame_layoutBits : commandOfFrame (layoutBits c) = c := by
  have hid : [(layoutBits c)[0], (layoutBits c)[1], (layoutBits c)[2], (layoutBits c)[3],
      (layoutBits c)[4], (layoutBits c)[5]] = List.ofFn fun k : Fin 6 => c.id.getMsbD k := rfl
  have hunit : [(layoutBits c)[6], (layoutBits c)[7], (layoutBits c)[8], (layoutBits c)[9]] =
      List.ofFn fun k : Fin 4 => c.unit.getMsbD k := rfl
  have hon : (layoutBits c)[11] = c.on := rfl
  rw [commandOfFrame, hid, hunit, hon, fieldValue_getMsbD, fieldValue_getMsbD, BitVec.ofNat_toNat,
    BitVec.ofNat_toNat, BitVec.setWidth_eq, BitVec.setWidth_eq]

/-- FRAME of a layout as a number: its fields do not overlap (R34, R141). -/
theorem frameRegister_layoutBits_toNat :
    (frameRegister (layoutBits c)).toNat = c.id.toNat * 64 + c.unit.toNat * 4 + c.on.toNat := by
  have hfields : fieldValue (layoutBits c).toList =
      c.id.toNat * 64 + c.unit.toNat * 4 + c.on.toNat := by
    rw [layoutBits_toList, fieldValue_append, fieldValue_append, fieldValue_getMsbD,
      fieldValue_getMsbD]
    simp only [fieldValue, List.length_ofFn, List.length_cons, List.length_nil, Bool.toNat_false,
      Nat.shiftLeft_eq]
    omega
  have hfits := fieldValue_lt (layoutBits c).toList
  rw [frameRegister, BitVec.toNat_ofNat, hfields, Nat.mod_eq_of_lt]
  rwa [hfields, Vector.length_toList] at hfits

/-- The two bits SOURCE mode forces to 1 in FRAME (R142, R143). -/
theorem frameRegister_source :
    frameRegister (frameBits c .source) = frameRegister (frameBits c .frame) ||| 0x801#12 := by
  apply BitVec.eq_of_getLsbD_eq
  intro i hi
  obtain ⟨k, rfl⟩ : ∃ k : Fin 12, i = 11 - k.val :=
    ⟨⟨11 - i, by omega⟩, (Nat.sub_sub_self (by omega)).symm⟩
  rw [BitVec.getLsbD_or, frameRegister_getLsbD, frameRegister_getLsbD, frameBits_get,
    frameBits_get]
  fin_cases k <;> simp

end

/-- The command sent in SOURCE mode is the given one exactly when it has what is forced (R151). -/
theorem sent_source_eq_iff (c : Command) :
    c.sent .source = c ↔ 32 ≤ c.id.toNat ∧ c.on = true := by
  have htop : ∀ x : BitVec 6, x ||| 32#6 = x ↔ 32 ≤ x.toNat := by decide
  obtain ⟨id, unit, on⟩ := c
  simp only [Command.sent, Command.mk.injEq, htop, true_and, eq_comm (a := true)]

section
variable (s : State)

/-- DECODE of the train of an accepted ENCODE, in any state that holds it and has its timing unit:
it returns the command that was sent, and the same Bit Frame (R150, R151). -/
theorem exec_decode_of_encoded {r : State} (hpt : r.pt = s.encoded.pt)
    (hunit : r.cfg.getLsbD 0 = s.cfg.getLsbD 0) :
    exec .decode r = .next { r with
      status := 8#4, outCmd := s.inputCommand.sent s.mode, frame := s.encoded.frame } := by
  have hbits : trainBits r.timingUnit r.pt = s.inputFrame := by
    rw [hpt, timingUnit_eq_of_unitSel_eq hunit, State.encoded_pt, trainBits_train]
  have hcmd : commandOfFrame s.inputFrame = s.inputCommand.sent s.mode := by
    rw [State.inputFrame, frameBits_eq_layoutBits_sent, commandOfFrame_layoutBits]
  rw [exec, execDecode_eq, hbits, hcmd, State.encoded_frame]

/-- FRAME after an accepted ENCODE, position by position (R141 to R143). -/
theorem encoded_frame_getLsbD (k : Fin 12) :
    s.encoded.frame.getLsbD (11 - k.val) =
      if s.mode = .source ∧ (k.val = 0 ∨ k.val = 11) then true
      else if k.val < 6 then s.inId.getLsbD (5 - k.val)
      else if k.val < 10 then s.inUnit.getLsbD (3 - (k.val - 6))
      else if k.val = 10 then false
      else !s.inFlags.getLsbD 3 := by
  have hid : s.inputCommand.id.getLsbD (5 - k.val) = s.inId.getLsbD (5 - k.val) := by
    rw [State.inputCommand, BitVec.getLsbD_extractLsb', decide_eq_true (by omega), Nat.zero_add,
      Bool.true_and]
  have hunit : s.inputCommand.unit.getLsbD (3 - (k.val - 6)) =
      s.inUnit.getLsbD (3 - (k.val - 6)) := by
    rw [State.inputCommand, BitVec.getLsbD_extractLsb', decide_eq_true (by omega), Nat.zero_add,
      Bool.true_and]
  rw [State.encoded_frame, frameRegister_getLsbD, State.inputFrame, frameBits_get, hid, hunit]
  simp only [Fin.ext_iff]
  rfl

/-- The reserved position is 0 in both modes. -/
theorem encoded_frame_reserved : s.encoded.frame.getLsbD 1 = false :=
  (encoded_frame_getLsbD s 10).trans (by simp)

end

end Sys2Proof.Machine
end

section
/-! The source's procedure writes a group at a time (42_encoder.md R147). -/

namespace Sys2Proof.Machine

section
variable (u : Nat)

/-- The buffer's twelve groups are the patterns of these bits. -/
def CarriesBits (p : Vector Word 50) (f : Fin 12 → Bool) : Prop :=
  ∀ g j, p[groupSlot g j] = slotWord (pattern u (f g))[j]

/-- No slot belongs to two groups. -/
theorem group_eq_of_groupSlot_eq {g g' : Fin 12} {j j' : Fin 4}
    (h : groupSlot g j = groupSlot g' j') : g = g' := by
  simp only [groupSlot, Fin.mk.injEq] at h
  apply Fin.ext
  omega

theorem writeGroup_same (g : Fin 12) (x : Bool) (p : Vector Word 50) (j : Fin 4) :
    (writeGroup u g x p)[groupSlot g j] = slotWord (pattern u x)[j] := by
  fin_cases j <;> simp [writeGroup, groupSlot]

theorem writeGroup_other {g g' : Fin 12} (h : g' ≠ g) (x : Bool) (p : Vector Word 50) (j : Fin 4) :
    (writeGroup u g x p)[groupSlot g' j] = p[groupSlot g' j] := by
  have hne : ∀ i, (groupSlot g i).val ≠ (groupSlot g' j).val :=
    fun i hi => h (group_eq_of_groupSlot_eq (Fin.ext hi)).symm
  simp [writeGroup, hne]

/-- Writing a group changes its bit and no other. -/
theorem CarriesBits.writeGroup {p : Vector Word 50} {f : Fin 12 → Bool} (h : CarriesBits u p f)
    (g : Fin 12) (x : Bool) : CarriesBits u (writeGroup u g x p) (Function.update f g x) := by
  intro g' j
  by_cases hg : g' = g
  · subst hg
    rw [Function.update_self, writeGroup_same]
  · rw [Function.update_of_ne hg, writeGroup_other u hg, h]

/-- A slot of the footer belongs to no group. -/
theorem CarriesBits.set_footer {p : Vector Word 50} {f : Fin 12 → Bool} (h : CarriesBits u p f)
    {k : Nat} (hk : 48 ≤ k) (hlt : k < 50) (w : Word) : CarriesBits u (p.set k w) f := by
  intro g j
  have hne : k ≠ (groupSlot g j).val := by simp only [groupSlot]; omega
  rw [← h g j, Fin.getElem_fin, Fin.getElem_fin, Vector.getElem_set_ne hlt _ hne]

/-- Step 1: the groups of a list written in turn hold their patterns, and the others what they
held. -/
theorem foldl_writeGroup_group (f : Fin 12 → Bool) (gs : List (Fin 12)) (p : Vector Word 50)
    {g : Fin 12} (j : Fin 4) (hg : g ∈ gs ∨ p[groupSlot g j] = slotWord (pattern u (f g))[j]) :
    (gs.foldl (fun q g' => writeGroup u g' (f g') q) p)[groupSlot g j] =
      slotWord (pattern u (f g))[j] := by
  induction gs generalizing p with
  | nil => simpa using hg
  | cons a gs ih =>
    refine ih _ ?_
    by_cases ha : g = a
    · subst ha; exact .inr (writeGroup_same u g _ p j)
    · rw [writeGroup_other u ha]
      simpa [ha] using hg

theorem carriesBits_baseline (f : Fin 12 → Bool) (p : Vector Word 50) :
    CarriesBits u ((List.finRange 12).foldl (fun q g => writeGroup u g (f g) q) p) f :=
  fun g j => foldl_writeGroup_group u f _ p j (.inl (List.mem_finRange g))

/-- Steps 2 and 3: a scan adds the ones of its field. -/
theorem CarriesBits.writeOnes (bitAt : Nat → Bool) (groupOf : Nat → Fin 12) (js : List Nat)
    {p : Vector Word 50} {f : Fin 12 → Bool} (h : CarriesBits u p f) :
    CarriesBits u (writeOnes u bitAt groupOf js p)
      (fun g => f g || js.any fun j => bitAt j && groupOf j == g) := by
  induction js generalizing p f with
  | nil => simpa [Machine.writeOnes] using h
  | cons j js ih =>
    cases hj : bitAt j with
    | false => simpa [Machine.writeOnes, hj] using ih h
    | true =>
      have hwritten := ih (h.writeGroup u (groupOf j) true)
      have hbits : ∀ g, (Function.update f (groupOf j) true g ||
            js.any fun i => bitAt i && groupOf i == g) =
          (f g || (j :: js).any fun i => bitAt i && groupOf i == g) := by
        intro g
        by_cases hg : g = groupOf j
        · subst hg; simp [hj]
        · have hother : (groupOf j == g) = false := beq_eq_false_iff_ne.mpr (Ne.symm hg)
          simp [Function.update_of_ne hg, hother]
      rw [funext hbits] at hwritten
      simpa [Machine.writeOnes, hj] using hwritten

/-- Of the positions below `n`, whose groups go down from `last`, only `last - g` has group `g`. -/
theorem any_range_group (bitAt : Nat → Bool) {n last : Nat} (hn : n ≤ last + 1) (hlast : last < 12)
    (g : Fin 12) :
    ((List.range n).any fun j => bitAt j && Fin.ofNat 12 (last - j) == g) =
      (decide (g.val ≤ last ∧ last - g.val < n) && bitAt (last - g.val)) := by
  have hgroup : ∀ j, j < n → (Fin.ofNat 12 (last - j) = g ↔ g.val ≤ last ∧ j = last - g.val) := by
    intro j hj
    rw [Fin.ext_iff, Fin.val_ofNat, Nat.mod_eq_of_lt (by omega)]
    omega
  rw [Bool.eq_iff_iff, List.any_eq_true]
  simp only [List.mem_range, Bool.and_eq_true, beq_iff_eq, decide_eq_true_iff]
  constructor
  · rintro ⟨j, hj, hbit, hg⟩
    obtain ⟨hle, rfl⟩ := (hgroup j hj).mp hg
    exact ⟨⟨hle, hj⟩, hbit⟩
  · rintro ⟨⟨hle, hj⟩, hbit⟩
    exact ⟨_, hj, hbit, (hgroup _ hj).mpr ⟨hle, rfl⟩⟩

/-- A scan of the `n` low bits of a field that ends at group `last` adds the field's ones. -/
theorem CarriesBits.writeField (bitAt : Nat → Bool) {n last : Nat} (hn : n ≤ last + 1)
    (hlast : last < 12) {p : Vector Word 50} {f : Fin 12 → Bool} (h : CarriesBits u p f) :
    CarriesBits u (Machine.writeOnes u bitAt (fun j => Fin.ofNat 12 (last - j)) (List.range n) p)
      (fun g => f g || (decide (g.val ≤ last ∧ last - g.val < n) && bitAt (last - g.val))) := by
  simpa only [any_range_group bitAt hn hlast] using
    h.writeOnes u bitAt (fun j => Fin.ofNat 12 (last - j)) (List.range n)

/-- A buffer with a Bit Frame's groups and footer is its train: there are no other slots. -/
theorem eq_train_of_carriesBits {p : Vector Word 50} {f : Fin 12 → Bool} {b : BitFrame}
    (h : CarriesBits u p f) (hf : ∀ g : Fin 12, f g = b[g]) (hunit : p[48] = slotWord u)
    (hend : p[49] = slotWord (footerPulse u)) : p = train u b := by
  apply Vector.ext
  intro k hk
  obtain ⟨g, j, hgroup⟩ | hfooter | hfooter := slot_cases ⟨k, hk⟩
  · obtain rfl : k = (groupSlot g j).val := congrArg Fin.val hgroup
    exact (h g j).trans (by rw [hf]; exact (train_group u b g j).symm)
  · obtain rfl : k = 48 := congrArg Fin.val hfooter
    rw [hunit, train_footer_unit]
  · obtain rfl : k = 49 := congrArg Fin.val hfooter
    rw [hend, train_footer_end]

/-- The bits above a number's length are 0. -/
theorem getLsbD_of_toNat_lt {w n : Nat} {x : BitVec w} (h : x.toNat < 2 ^ n) (k : Nat) :
    x.getLsbD (n + k) = false :=
  Nat.testBit_lt_two_pow (h.trans_le (Nat.pow_le_pow_right (by decide) (Nat.le_add_right n k)))

/-- Positions above those scanned make no difference when their bits are 0. -/
theorem writeOnes_range_eq {n m : Nat} (hnm : n ≤ m) (bitAt : Nat → Bool) (groupOf : Nat → Fin 12)
    (hzero : ∀ k, bitAt (n + k) = false) (p : Vector Word 50) :
    writeOnes u bitAt groupOf (List.range n) p = writeOnes u bitAt groupOf (List.range m) p := by
  induction m, hnm using Nat.le_induction with
  | base => rfl
  | succ m hm ih =>
    have hbit : bitAt m = false := by
      rw [← Nat.add_sub_of_le hm]
      exact hzero _
    rw [ih, writeOnes, writeOnes, List.range_succ, List.foldl_append]
    simp [hbit]

end

/-- The procedure of R147 writes the train of ENCODE's Bit Frame, whatever the buffer held. -/
theorem procedureTrain_eq_train (u : Nat) (c : Command) (m : EncMode) (p : Vector Word 50) :
    procedureTrain u c m p = train u (frameBits c m) := by
  have hbase := carriesBits_baseline u (fun g => g == 0 && m == .source) p
  have hid := hbase.writeField u (fun j => c.id.getLsbD j) (n := 6) (last := 5) (by decide)
    (by decide)
  have hunit := hid.writeField u (fun j => c.unit.getLsbD j) (n := 4) (last := 6 + 3) (by decide)
    (by decide)
  have hstate := (hunit.writeGroup u 10 false).writeGroup u 11 (if m = .source then true else c.on)
  have hfooter := (hstate.set_footer u (k := 48) (by decide) (by decide) (slotWord u)).set_footer u
    (k := 49) (by decide) (by decide) (slotWord (footerPulse u))
  refine eq_train_of_carriesBits u hfooter (fun g => ?_) ?_ ?_
  · rw [frameBits_get]
    cases m <;> fin_cases g <;> simp
  · simp [procedureTrain]
  · simp [procedureTrain]

end Sys2Proof.Machine
end

section
/-! Proofs of the family 42_encoder.md: the outcome of ENCODE, its round trip through DECODE, and
the source's procedure. -/

namespace Sys2Proof.Proofs

open Sys2Proof.Machine

/-- Settles O24: DECODE returns the command that was sent, which in FRAME mode is the accepted
one. -/
theorem roundTripInFrameMode : Obligations.RoundTripInFrameMode := by
  intro s h hmode
  refine ⟨_, exec_encode_of_accepted h, fun r hpt hunit => ?_⟩
  have hr := exec_decode_of_encoded s hpt hunit
  rw [mode_of_frame hmode] at hr
  exact ⟨_, hr, rfl, inputCommand_id_toNat h, inputCommand_unit_toNat h, rfl, rfl, rfl⟩

/-- Settles O25: DECODE returns the command that was sent, which in SOURCE mode has id bit 5 set and
is on. -/
theorem roundTripInSourceMode : Obligations.RoundTripInSourceMode := by
  intro s h hmode
  refine ⟨_, exec_encode_of_accepted h, fun r hpt hunit => ?_⟩
  have hr := exec_decode_of_encoded s hpt hunit
  rw [mode_of_source hmode] at hr
  refine ⟨_, hr, ?id, inputCommand_unit_toNat h, rfl, ?identity⟩
  case id =>
    rw [← inputCommand_id_toNat h]
    exact BitVec.toNat_or _ _
  case identity =>
    rw [← inputCommand_id_toNat h]
    exact (sent_source_eq_iff s.inputCommand).trans
      (and_congr_right' (Iff.of_eq (Bool.not_eq_true' _)))

/-- Settles O19: the error code is 0 exactly on the acceptance set, and an error writes only
STATUS. -/
theorem failedEncodeWritesOnlyStatus : Obligations.FailedEncodeWritesOnlyStatus := by
  intro s
  by_cases h : Accepted s
  · have herr : s.encoded.err = 0 := err_of_success s.encoded_status
    exact ⟨_, exec_encode_of_accepted h, iff_of_false (absurd herr) (not_not_intro h), absurd herr⟩
  · obtain ⟨e, he, -⟩ := verdict_of_not_accepted h
    have herr : e.code ≠ 0 := by cases e <;> decide
    rw [← err_of_error (s := { s with status := errStatus e }) rfl] at herr
    exact ⟨_, exec_of_verdict_error (.inr rfl) he, iff_of_true herr h,
      fun _ => ⟨rfl, outValid_of_error rfl⟩⟩

/-- Settles O20: an error is one of the validator's three, and an accepted command leaves the state
`State.encoded`, whose fields are read as numbers. -/
theorem encodeWritesCommandFrameTrain : Obligations.EncodeWritesCommandFrameTrain := by
  intro s
  refine ⟨fun h => ?rejected, fun h => ?accepted⟩
  case rejected =>
    obtain ⟨e, he, hmin, hmax⟩ := verdict_of_not_accepted h
    exact ⟨_, hmin, hmax, exec_of_verdict_error (.inr rfl) he, exec_of_verdict_error (.inl rfl) he⟩
  case accepted =>
    have hid := inputCommand_id_toNat h
    have hunit := inputCommand_unit_toNat h
    have hlayout := frameRegister_layoutBits_toNat s.inputCommand
    rw [hid, hunit] at hlayout
    refine ⟨_, exec_encode_of_accepted h, rfl, hid, hunit, rfl, ?frame, ?source, ?reserved, ?train⟩
    case frame =>
      intro hmode
      rw [State.encoded_frame, State.inputFrame, mode_of_frame hmode]
      exact hlayout
    case source =>
      intro hmode
      rw [State.encoded_frame, State.inputFrame, mode_of_source hmode, frameRegister_source,
        BitVec.toNat_or]
      exact congrArg (· ||| 0x801) hlayout
    case reserved =>
      exact encoded_frame_reserved s
    case train =>
      intro u hu
      obtain rfl : u = s.timingUnit := hu.trans (timingUnit_eq s).symm
      have hslot := train_group_toNat s s.inputFrame
      refine ⟨fun g => ?_, train_footer_unit_toNat s _, train_footer_end_toNat s _⟩
      rw [State.encoded_frame, frameRegister_getLsbD]
      exact ⟨(hslot g 0).trans (pattern_zero _ _), (hslot g 1).trans (pattern_one _ _),
        (hslot g 2).trans (pattern_two _ _), (hslot g 3).trans (pattern_three _ _)⟩

/-- Settles O21: FRAME holds the frame of the accepted command, position by position. -/
theorem framePositionsFollowLayout : Obligations.FramePositionsFollowLayout := by
  intro s h
  have hframe := encoded_frame_getLsbD s
  refine ⟨_, exec_encode_of_accepted h, fun k hpos hk => ?id, fun k hk => ?unit,
    encoded_frame_reserved s, fun hmode => ?frame, fun hmode => ?source⟩
  case id =>
    have hunforced : ¬ (k = 0 ∨ k = 11) := by omega
    exact (hframe ⟨k, by omega⟩).trans
      ((if_neg (mt And.right hunforced)).trans (if_pos (Nat.lt_succ_of_le hk)))
  case unit =>
    have hunforced : ¬ (6 + k = 0 ∨ 6 + k = 11) := by omega
    have hunit : ¬ 6 + k < 6 ∧ 6 + k < 10 := by omega
    have hposition := hframe ⟨6 + k, by omega⟩
    rwa [if_neg (mt And.right hunforced), if_neg hunit.1, if_pos hunit.2,
      Nat.add_sub_cancel_left] at hposition
  case frame =>
    exact ⟨(hframe 0).trans (by simp [mode_of_frame hmode]),
      (hframe 11).trans (by simp [mode_of_frame hmode])⟩
  case source =>
    exact ⟨(hframe 0).trans (by simp [mode_of_source hmode]),
      (hframe 11).trans (by simp [mode_of_source hmode])⟩

/-- Settles O22: the state an accepted ENCODE leaves is given by CFG and the inputs. -/
theorem encodeDependsOnInputsOnly : Obligations.EncodeDependsOnInputsOnly := by
  intro r s h hcfg hflags hid hunit
  have hr : Accepted r := by rwa [Accepted, hflags, hid, hunit]
  refine ⟨_, exec_encode_of_accepted h, ?_⟩
  rw [exec_encode_of_accepted hr, encoded_eq_of_inputs_eq hcfg hflags hid hunit]

/-- Settles O23: the procedure writes the same bits to the same groups, and the positions above a
value's length hold zeros. -/
theorem sourceProcedureWritesSameTrain : Obligations.SourceProcedureWritesSameTrain := by
  intro s h
  refine ⟨_, exec_encode_of_accepted h, fun old => ?procedure,
    fun u n m buf hn hid hm hunit => ?scan⟩
  case procedure =>
    rw [← timingUnit_eq]
    exact procedureTrain_eq_train s.timingUnit s.inputCommand s.mode old
  case scan =>
    rw [← inputCommand_id_toNat h] at hid
    rw [← inputCommand_unit_toNat h] at hunit
    exact ⟨writeOnes_range_eq u hn _ _ (getLsbD_of_toNat_lt hid) buf,
      writeOnes_range_eq u hm _ _ (getLsbD_of_toNat_lt hunit) buf⟩

end Sys2Proof.Proofs
end

section
/-! The outcome of DECODE, and the fields of the Bit Frame it reads as weighted sums of its bits
(43_decoder.md R160 to R164). -/

namespace Sys2Proof.Machine

/-! ### A Bit Frame as numbers -/

section
variable (b : BitFrame)

theorem commandOfFrame_id_toNat :
    (commandOfFrame b).id.toNat = b[0].toNat * 32 + b[1].toNat * 16 + b[2].toNat * 8 +
      b[3].toNat * 4 + b[4].toNat * 2 + b[5].toNat := by
  have hfits : (commandOfFrame b).id.toNat = fieldValue [b[0], b[1], b[2], b[3], b[4], b[5]] :=
    Nat.mod_eq_of_lt (fieldValue_lt _)
  simp [hfits, fieldValue, Nat.shiftLeft_eq, Nat.add_assoc]

theorem commandOfFrame_unit_toNat :
    (commandOfFrame b).unit.toNat =
      b[6].toNat * 8 + b[7].toNat * 4 + b[8].toNat * 2 + b[9].toNat := by
  have hfits : (commandOfFrame b).unit.toNat = fieldValue [b[6], b[7], b[8], b[9]] :=
    Nat.mod_eq_of_lt (fieldValue_lt _)
  simp [hfits, fieldValue, Nat.shiftLeft_eq, Nat.add_assoc]

theorem frameRegister_toNat :
    (frameRegister b).toNat = b[0].toNat * 2048 + b[1].toNat * 1024 + b[2].toNat * 512 +
      b[3].toNat * 256 + b[4].toNat * 128 + b[5].toNat * 64 + b[6].toNat * 32 + b[7].toNat * 16 +
      b[8].toNat * 8 + b[9].toNat * 4 + b[10].toNat * 2 + b[11].toNat := by
  have hfits : (frameRegister b).toNat = fieldValue b.toList :=
    Nat.mod_eq_of_lt (by simpa using fieldValue_lt b.toList)
  have hlist : b.toList =
      [b[0], b[1], b[2], b[3], b[4], b[5], b[6], b[7], b[8], b[9], b[10], b[11]] := by
    rw [← Vector.ofFn_getElem (xs := b), Vector.toList_ofFn]
    simp
  simp [hfits, hlist, fieldValue, Nat.shiftLeft_eq, Nat.add_assoc]

/-- Every bit of FRAME is a position of the Bit Frame (R162). -/
theorem frameRegister_getLsbD_of_lt {j : Nat} (hj : j < 12) :
    (frameRegister b).getLsbD j = b[11 - j] := by
  have h := frameRegister_getLsbD b ⟨11 - j, by omega⟩
  rwa [Nat.sub_sub_self (by omega)] at h

/-- Position 10 is no part of the command (R163). -/
theorem commandOfFrame_set_reserved (x : Bool) :
    commandOfFrame (b.set 10 x) = commandOfFrame b := by
  simp [commandOfFrame]

end

theorem commandOfFrame_eq_of_others_eq {a b : BitFrame}
    (h : ∀ k : Fin 12, k ≠ 10 → a[k] = b[k]) : commandOfFrame a = commandOfFrame b := by
  have hset : a.set 10 false = b.set 10 false := by
    apply Vector.ext
    intro k hk
    rw [Vector.getElem_set, Vector.getElem_set]
    split_ifs with hk10
    · rfl
    · exact h ⟨k, hk⟩ fun heq => hk10 (congrArg Fin.val heq).symm
  rw [← commandOfFrame_set_reserved a false, hset, commandOfFrame_set_reserved]

/-! ### DECODE -/

section
variable (s : State)

/-- The Bit Frame the Pulse Train buffer carries under the timing unit in force. -/
def State.carriedFrame : BitFrame := trainBits s.timingUnit s.pt

/-- The state DECODE leaves. -/
def State.decoded : State :=
  { s with
    status := 8#4, outCmd := commandOfFrame s.carriedFrame
    frame := frameRegister s.carriedFrame }

@[simp] theorem State.decoded_status : s.decoded.status = 8#4 := rfl
@[simp] theorem State.decoded_outCmd : s.decoded.outCmd = commandOfFrame s.carriedFrame := rfl
@[simp] theorem State.decoded_frame : s.decoded.frame = frameRegister s.carriedFrame := rfl

theorem exec_decode : exec .decode s = .next s.decoded := execDecode_eq s

/-- Group `g` carries 1 exactly when its fourth slot is three timing units (R160, R128). -/
theorem carriedFrame_get_iff (g : Fin 12) :
    s.carriedFrame[g] = true ↔
      s.pt[groupSlot g 3].toNat = 3 * (if s.cfg.getLsbD 0 then 258 else 264) := by
  rw [State.carriedFrame, trainBits_get, bitOf_timingUnit_iff, timingUnit_eq]

theorem carriedFrame_get_toNat (g : Fin 12) :
    s.carriedFrame[g].toNat =
      if s.pt[groupSlot g 3].toNat = 3 * (if s.cfg.getLsbD 0 then 258 else 264) then 1 else 0 := by
  rw [← if_congr (carriedFrame_get_iff s g) rfl rfl, Bool.toNat, cond_eq_ite]

end

/-- A group's bit depends on UNIT_SEL and on its fourth slot only (R164). -/
theorem carriedFrame_get_congr {r s : State} (hunit : r.cfg.getLsbD 0 = s.cfg.getLsbD 0)
    {g : Fin 12} (hslot : r.pt[groupSlot g 3] = s.pt[groupSlot g 3]) :
    r.carriedFrame[g] = s.carriedFrame[g] := by
  rw [Bool.eq_iff_iff, carriedFrame_get_iff, carriedFrame_get_iff, hunit, hslot]

end Sys2Proof.Machine
end

section
/-! Proofs of the family 43_decoder.md: the outcome of DECODE, and what it depends on. -/

namespace Sys2Proof.Proofs

open Sys2Proof.Machine

/-- Settles O27: the bits `b` are those of the frame PT carries, whose fields are their weighted
sums. -/
theorem decodeWritesCommandAndFrame : Obligations.DecodeWritesCommandAndFrame := by
  intro s
  refine ⟨_, exec_decode s, rfl, fun b hb => ?_⟩
  obtain rfl : b = fun g => s.carriedFrame[g].toNat :=
    funext fun g => by rw [carriedFrame_get_toNat]; exact hb g
  exact ⟨commandOfFrame_id_toNat _, commandOfFrame_unit_toNat _, rfl, frameRegister_toNat _⟩

/-- Settles O28: equal fourth slots under one unit carry the same Bit Frame, which gives every
result. -/
theorem decodeReadsUnitAndFourthSlotsOnly : Obligations.DecodeReadsUnitAndFourthSlotsOnly := by
  intro r s hunit hslots
  have hframe : r.carriedFrame = s.carriedFrame :=
    Vector.ext fun k hk => carriedFrame_get_congr hunit (hslots ⟨k, hk⟩)
  exact ⟨_, _, exec_decode r, exec_decode s, congrArg commandOfFrame hframe,
    congrArg frameRegister hframe, rfl⟩

/-- Settles O29: the two Bit Frames agree but at position 10, which no field of the command reads
and which is FRAME[1]. -/
theorem reservedPositionOnlyShowsInFrame : Obligations.ReservedPositionOnlyShowsInFrame := by
  intro r s hunit hslots
  have hbits : ∀ k : Fin 12, k ≠ 10 → r.carriedFrame[k] = s.carriedFrame[k] :=
    fun k hk => carriedFrame_get_congr hunit (hslots k hk)
  refine ⟨_, _, exec_decode r, exec_decode s, commandOfFrame_eq_of_others_eq hbits, ?reserved,
    fun j hj => ?others⟩
  case reserved =>
    rw [State.decoded_frame, frameRegister_getLsbD_of_lt _ (by decide)]
    exact carriedFrame_get_iff r 10
  case others =>
    rw [State.decoded_frame, State.decoded_frame]
    by_cases hlt : j < 12
    · rw [frameRegister_getLsbD_of_lt _ hlt, frameRegister_getLsbD_of_lt _ hlt]
      exact hbits ⟨11 - j, by omega⟩ (by simp [Fin.ext_iff]; omega)
    · rw [BitVec.getLsbD_of_ge _ _ (by omega), BitVec.getLsbD_of_ge _ _ (by omega)]

end Sys2Proof.Proofs
end

section
/-! The operations NOP and BAD_OP (44_control.md R180, R181). -/

namespace Sys2Proof.Machine

/-- NOP writes nothing (R180). -/
theorem exec_nop (s : State) : exec .nop s = .next s := rfl

/-- BAD_OP raises its error, whatever the reserved word, and so writes STATUS alone (R181). -/
theorem exec_badOp (w : Word) (s : State) :
    exec (.badOp w) s = .next { s with status := 4#4 } := by
  rw [exec, execBadOp, raiseErr_eq, errStatus_badOp]

end Sys2Proof.Machine
end

section
/-! Proofs of the family 44_control.md: NOP, and BAD_OP by every reserved value. -/

namespace Sys2Proof.Proofs

open Sys2Proof.Machine

/-- Settles O15: RSV ≠ 0 or OP ≥ 4 makes the value a reserved one, whose step is BAD_OP. -/
theorem reservedValueWritesOnlyStatus : Obligations.ReservedValueWritesOnlyStatus := by
  refine ⟨exec_badOp, fun s v rest hnext hv => ?_⟩
  have hreserved : 4 ≤ v.toNat := by omega
  calc step s
      = exec (decodeCtrl v) { s with pending := rest } := stepRunsDecodedOperation s v rest hnext
    _ = exec (.badOp v) { s with pending := rest } := by rw [decodeCtrl_of_reserved hreserved]
    _ = .next { s with pending := rest, status := 4#4 } := exec_badOp v _

/-- Settles O14: 0x10 is at least 4, so it is a reserved value and not NOP. -/
theorem nopChangesNothing : Obligations.NopChangesNothing :=
  ⟨exec_nop, decodeCtrl_zero, decodeCtrl_of_reserved (by decide)⟩

end Sys2Proof.Proofs
end

section
/-! The two outcomes of an operation, its frame, and the transactions that leave STATUS (60_exceptions.md
R201, R203, R204). -/

namespace Sys2Proof.Machine

/-! ### Success and error -/

theorem outValid_of_success {s : State} (h : s.status = 8#4) : s.outValid = true := by
  rw [State.outValid, h]; decide

/-- The error codes are 1 to 4 (R200). -/
theorem ErrCode.code_toNat_range (e : ErrCode) : 1 ≤ e.code.toNat ∧ e.code.toNat ≤ 4 := by
  cases e <;> decide

/-- An operation other than NOP leaves the STATUS of success, or raises an error, which writes STATUS
alone (R203). -/
theorem exec_succeeds_or_raises {i : Instr} {s t : State} (hi : i ≠ .nop)
    (h : exec i s = .next t) : t.status = 8#4 ∨ ∃ e, t = { s with status := errStatus e } := by
  obtain ⟨hnop, -⟩ | ⟨e, -, ht⟩ | ⟨-, c, -, rfl⟩ | ⟨-, c, -, rfl⟩ | ⟨-, rfl⟩ := exec_cases h
  · exact absurd hnop hi
  · exact .inr ⟨e, ht⟩
  · exact .inl rfl
  · exact .inl rfl
  · exact .inl rfl

/-! ### The frame of an operation -/

section
variable {i : Instr} {s t : State} (h : exec i s = .next t)
include h

/-- An operation can change STATUS, OUT_CMD, FRAME and PT only: CFG, the command inputs and the host's
own fields stay. -/
theorem exec_frame :
    ∃ v c f p, t = { s with status := v, outCmd := c, frame := f, pt := p } := by
  obtain ⟨-, rfl⟩ | ⟨e, -, rfl⟩ | ⟨-, c, -, rfl⟩ | ⟨-, c, -, rfl⟩ | ⟨-, rfl⟩ := exec_cases h <;>
    exact ⟨_, _, _, _, rfl⟩

/-- Only ENCODE writes PT (R35). -/
theorem exec_keeps_pt (hi : i ≠ .encode) : t.pt = s.pt := by
  obtain ⟨-, rfl⟩ | ⟨e, -, rfl⟩ | ⟨-, c, -, rfl⟩ | ⟨hencode, -⟩ | ⟨-, rfl⟩ := exec_cases h
  · rfl
  · rfl
  · rfl
  · exact absurd hencode hi
  · rfl

/-- Only ENCODE and DECODE write FRAME (R34). -/
theorem exec_keeps_frame (hencode : i ≠ .encode) (hdecode : i ≠ .decode) : t.frame = s.frame := by
  obtain ⟨-, rfl⟩ | ⟨e, -, rfl⟩ | ⟨-, c, -, rfl⟩ | ⟨hi, -⟩ | ⟨hi, -⟩ := exec_cases h
  · rfl
  · rfl
  · rfl
  · exact absurd hi hencode
  · exact absurd hi hdecode

/-- NOP and BAD_OP report no command (R180, R181). -/
theorem exec_keeps_outCmd (hi : i = .nop ∨ ∃ w, i = .badOp w) : t.outCmd = s.outCmd := by
  obtain rfl | ⟨w, rfl⟩ := hi
  · cases (exec_nop s).symm.trans h
    rfl
  · cases (exec_badOp w s).symm.trans h
    rfl

end

/-! ### STATUS between operations -/

/-- NOP leaves STATUS (R180). -/
theorem exec_nop_keeps_status {s t : State} (h : exec .nop s = .next t) : t.status = s.status := by
  cases (exec_nop s).symm.trans h
  rfl

/-- No read, no write to another word than CTRL and no NOP changes STATUS (R204). -/
theorem transact_keeps_status {t : Transaction} (s : State)
    (hnop : ∀ v, t = .write 0x00 v → v = 0) :
    ∃ u : State, transact t s = .next u ∧ u.status = s.status := by
  obtain ⟨a, -, h⟩ | ⟨a, v, -, -, h⟩ | ⟨v, ht, h⟩ := transact_cases t s
  · exact ⟨_, h, State.record_status s _⟩
  · exact ⟨_, h, by rw [busStore_frame]⟩
  · have hdecode : decodeCtrl v = .nop := by rw [hnop v ht]; exact decodeCtrl_zero
    exact ⟨s, by rw [h, hdecode, exec_nop], rfl⟩

end Sys2Proof.Machine
end

section
/-! Proofs of the family 60_exceptions.md: how an operation ends, what it leaves unchanged, and how long
STATUS keeps its outcome. -/

namespace Sys2Proof.Proofs

open Sys2Proof.Machine

/-- Settles O33: an operation's state is one of success or one of an error, whose STATUS gives both
fields. -/
theorem operationSucceedsOrChangesOnlyStatus :
    Obligations.OperationSucceedsOrChangesOnlyStatus := by
  intro i s hi
  obtain ⟨t, ht⟩ := exec_has_next i s
  obtain hok | ⟨e, rfl⟩ := exec_succeeds_or_raises hi ht
  · exact .inl ⟨t, ht, err_of_success hok, outValid_of_success hok⟩
  · obtain ⟨hpos, hle⟩ := e.code_toNat_range
    exact .inr ⟨e.code.toNat, _, hpos, hle, ht, rfl, congrArg BitVec.toNat (err_of_error rfl),
      outValid_of_error rfl⟩

/-- Settles O34, by the frame of every operation and of each that writes less. -/
theorem operationsLeaveTheRestAlone : Obligations.OperationsLeaveTheRestAlone := by
  intro i s t h
  obtain ⟨v, c, f, p, rfl⟩ := exec_frame h
  refine ⟨rfl, rfl, rfl, rfl, rfl, rfl, exec_keeps_pt h, exec_keeps_frame h, exec_keeps_outCmd h, ?_⟩
  rintro rfl
  exact exec_nop_keeps_status h

/-- Settles O35, by what the host does next: nothing, a transaction that leaves STATUS, or the reset
event, which is excluded. -/
theorem statusKeepsLastOutcome : Obligations.StatusKeepsLastOutcome := by
  refine fun s => ⟨fun hreset hnop => ?_, fun i v hi => exec_setStatus hi s v⟩
  cases hp : s.pending with
  | nil => exact ⟨s, step_of_idle hp, rfl⟩
  | cons e rest =>
    cases e with
    | bus t =>
      rw [step_of_bus hp]
      exact transact_keeps_status (s.setPending rest)
        fun v ht => hnop v rest (by rw [hp, ht])
    | reset => exact absurd hp (hreset rest)

/-- Settles O7. -/
theorem idleStepKeepsState : Obligations.IdleStepKeepsState := fun _ => step_of_idle

end Sys2Proof.Proofs
end

section
/-! The reset state, and DECODE under the other timing unit than the train's
(70_reset_and_hazards.md R230, R234). -/

namespace Sys2Proof.Machine

/-! ### The reset state -/

theorem reset_slot (k : Fin 50) : State.reset.pt[k] = 0 := Vector.getElem_replicate k.isLt

theorem busRead_reset (a : Addr) : busRead a State.reset = 0 := by
  unfold busRead
  cases busTarget a with
  | slot k => exact reset_slot k
  | _ => rfl

/-! ### Two timing units -/

/-- The short pulse of one unit is shorter than the long pulse of either. -/
theorem timingUnit_lt_longPulse (r s : State) : s.timingUnit < 3 * r.timingUnit := by
  have hlt : ∀ a b, Config.unitTable a < 3 * Config.unitTable b := by decide
  exact hlt s.unitSel r.unitSel

section
variable {r s : State}

/-- The two units of UNIT_TABLE differ (R9). -/
theorem timingUnit_ne_of_unitSel_ne (h : r.cfg.getLsbD 0 ≠ s.cfg.getLsbD 0) :
    r.timingUnit ≠ s.timingUnit := by
  have hinj : Function.Injective Config.unitTable := by decide
  exact hinj.ne h

/-- The fourth value of a pattern, `u` or `3u`, is not the long pulse of the other unit. -/
theorem pattern_three_ne_of_unitSel_ne (h : r.cfg.getLsbD 0 ≠ s.cfg.getLsbD 0) (x : Bool) :
    (pattern s.timingUnit x)[3] ≠ 3 * r.timingUnit := by
  rw [pattern_three]
  cases x with
  | false => exact (timingUnit_lt_longPulse r s).ne
  | true =>
    exact mt (Nat.eq_of_mul_eq_mul_left (by decide : 0 < 3)) (timingUnit_ne_of_unitSel_ne h).symm

/-- Under the other unit no group of a train is read as 1 (R234). -/
theorem carriedFrame_of_other_unit {b : BitFrame} (hpt : r.pt = train s.timingUnit b)
    (h : r.cfg.getLsbD 0 ≠ s.cfg.getLsbD 0) : r.carriedFrame = Vector.replicate 12 false := by
  refine Vector.ext fun k hk => ?_
  have hbit : bitOf r.timingUnit r.pt ⟨k, hk⟩ ≠ true := by
    rw [ne_eq, bitOf_timingUnit_iff, hpt, train_group_toNat]
    exact pattern_three_ne_of_unitSel_ne h _
  calc r.carriedFrame[k]
      = bitOf r.timingUnit r.pt ⟨k, hk⟩ := trainBits_get _ _ ⟨k, hk⟩
    _ = false := Bool.eq_false_iff.mpr hbit
    _ = (Vector.replicate 12 false)[k] := (Vector.getElem_replicate hk).symm

end

end Sys2Proof.Machine
end

section
/-! Proofs of the family 70_reset_and_hazards.md: the reset event, and a train read under the other
timing unit. -/

namespace Sys2Proof.Proofs

open Sys2Proof.Machine

/-- Settles O26: every bit of the train is read as 0, so the command and FRAME are 0. -/
theorem timingUnitMismatchDecodesToZero : Obligations.TimingUnitMismatchDecodesToZero := by
  intro s h
  refine ⟨_, exec_encode_of_accepted h, fun r hpt hunit => ⟨_, exec_decode r, ?_, ?_, rfl⟩⟩
  · rw [State.decoded_outCmd, carriedFrame_of_other_unit hpt hunit]
    decide
  · rw [State.decoded_frame, carriedFrame_of_other_unit hpt hunit]
    decide

/-- Settles O12: the step is the reset event, which takes every element of the block from the reset
state. -/
theorem resetSetsEveryElement : Obligations.ResetSetsEveryElement := by
  intro s rest hnext
  exact ⟨_, step_of_reset hnext, rfl, rfl, rfl, rfl, rfl, rfl, rfl, rfl, rfl, reset_slot,
    busRead_ctrl _ rfl, rfl⟩

/-- Settles O13: each address names CTRL, a reserved word, or an element that reset sets to 0. -/
theorem everyReadAfterResetIsZero : Obligations.EveryReadAfterResetIsZero := busRead_reset

/-- Settles O37: STATUS is 0, so ERR is 0 and OUT_VALID is clear. -/
theorem resetStatusIsLegal : Obligations.ResetStatusIsLegal := by
  have herr : State.reset.err = 0 := by decide
  exact ⟨by rw [herr]; decide, fun _ => herr⟩

end Sys2Proof.Proofs
end
